-- ==== Sys2Proof/Word.lean ====
section
/-!
DEFINITION. The plain data words of the Master block: a byte, an address of the shared address space (10 R40),
the shared address space as a list of cells (20 R60), and one store to it (20 R63: only one-byte accesses exist).
-/

namespace Sys2Proof

/-- One location of the shared address space (10 R40). -/
abbrev Byte := BitVec 8

/-- An address: 65,536 locations, so 16 bits (10 R40). -/
abbrev Addr := BitVec 16

/-- The shared address space as data: the listed cells, sorted by address, no cell holding the value an unlisted
address reads as (`Machine.Memory.wf` says so, log entry 7). -/
abbrev Memory := List Host.Cell

/-- One store `MemWrite(addr, 1, byte)` (00 R7). A collaborator's stores are a list of these, so that a store outside
the space cannot be written down (20 R74). -/
structure Write where
  addr : Addr
  byte : Byte
deriving DecidableEq, Repr, Inhabited

end Sys2Proof
end

