-- ==== Sys2Proof/Config.lean ====
section
/-!
DEFINITION. What an instance of the block fixes (00 R4), the data that crosses the collaborator ports (44 R230 to R243),
the collaborators themselves as OPAQUE functions, and the free values. Nothing in Lean can evaluate an opaque constant,
so what is proved of the model holds for every collaborator that satisfies its port's rule (44 R243).
-/

namespace Sys2Proof

/-- The PPU mode (42 R160). -/
inductive Mode where
  | oamScan | pixelTransfer | hBlank | vBlank
deriving DecidableEq, Repr, Inhabited

/-- The instruction descriptor `Instr` of 10 R29 and 30 R103: opaque to the block, which stores it and hands it back.
It is held as the number that codes it (log entry 4). -/
structure Descriptor where
  code : Nat
deriving DecidableEq, Repr, Inhabited

/-- A collaborator's private state (10 R46): threaded through its calls, never inspected (44 R240). Its words are the
collaborator's own business (log entry 4). -/
structure PrivateState where
  words : List Nat
deriving DecidableEq, Repr, Inhabited

/-- The external controller state of one moment, read by the input poller (44 R232), as the number that codes it
(log entry 4). -/
structure ControllerState where
  code : Nat
deriving DecidableEq, Repr, Inhabited

/-- The CPU collaborator's state: the five items the block's rules name (10 R41 to R43) and the rest, private. -/
structure Cpu where
  /-- `cpu.pc` (10 R43) -/
  pc : Addr
  /-- `cpu.sp` (10 R41, 60 R277) -/
  sp : Addr
  /-- `cpu.ime`, the master-interrupt-enable flag (10 R42) -/
  ime : Bool
  /-- `cpu.ime_pending`, none or the requested value (10 R42) -/
  imePending : Option Bool
  /-- `cpu.extra`, the per-instruction extra-cycle accumulator, `W_COST` = 8 bits (10 R43, 44 R237) -/
  extra : Byte
  /-- every other register of the CPU (10 R46) -/
  own : PrivateState
deriving DecidableEq, Repr, Inhabited

/-- What `cpu.fetch_decode` answers (44 R235): the descriptor and the base cost; how far it advances `cpu.pc` BEYOND the
one byte; what it adds to `cpu.extra`; and the CPU state its rule leaves free (log entry 5). It has no field for
`cpu.ime_pending`, which only `U_EXEC` may set (10 R42, 41 R138), and none for stores (44 R235 (e)). -/
structure DecodeAnswer where
  ir : Descriptor
  base : Byte
  further : Addr
  added : Byte
  sp : Addr
  ime : Bool
  own : PrivateState
deriving DecidableEq, Repr, Inhabited

/-- What `cpu.execute` answers (44 R236): all CPU state, and the stores it made, in order. -/
structure ExecuteAnswer where
  cpu : Cpu
  writes : List Write
deriving DecidableEq, Repr, Inhabited

/-- What the timer, the input poller and the PPU answer (44 R231, R232, R234): private state and stores, in order. -/
structure PeripheralAnswer where
  own : PrivateState
  writes : List Write
deriving DecidableEq, Repr, Inhabited

/-- Which collaborators stand behind the ports (44 R243): `any`, the opaque ones below, or the stub collaborators that
95_test_vectors.md section 2 defines for its vectors (a fixture, not the hardware; log entry 3). -/
inductive Collaborators where
  | any | fixture
deriving DecidableEq, Repr, Inhabited

/-- The parameters of an instance (00 R4), under the names of the spec. A model takes them as arguments; here they stand
in State, no step writes them (log entry 1). `MEM_SIZE`, `VISIBLE_LINES` and `W_COST` are fixed: the width of `Addr`,
`Machine.visibleLines`, the width of `Byte`. The counter widths are naturals (92 D13). -/
structure Params where
  collaborators : Collaborators
  scanlineCycleBudget : Nat
  hblankStart : Nat
  oamEnd : Nat
  vblankLines : Nat
  aIE : Addr
  aIF : Addr
  aSTAT : Addr
  aLY : Addr
  aLYC : Addr
  aJOYP : Addr
  aDIV : Addr
  aTIMA : Addr
  aDMA : Addr
  ifVblank : Fin 8
  ifStat : Fin 8
  ifTimer : Fin 8
  statSelHblank : Fin 8
  statSelVblank : Fin 8
  statSelPt : Fin 8
  statSelLyc : Fin 8
  codeHblank : BitVec 2
  codeVblank : BitVec 2
  codeOamScan : BitVec 2
  codePixelTransfer : BitVec 2
  resetMode : Mode
  hasDebug : Bool
deriving DecidableEq, Repr

namespace Config

/-- `cpu.fetch_decode`: from the opcode byte, the CPU (its pc already one byte further) and the space (44 R235). -/
opaque cpuDecode : Byte → Cpu → Memory → DecodeAnswer

/-- `cpu.execute`: from the latched descriptor, the CPU and the space (44 R236). -/
opaque cpuExecute : Descriptor → Cpu → Memory → ExecuteAnswer

/-- `timer.advance`: from the cost on the cycle bus, the timer and the space (44 R231). -/
opaque timerAdvance : Nat → PrivateState → Memory → PeripheralAnswer

/-- `input.refresh`: from the controller sample, the poller and the space; the cycle bus is ignored (44 R232). -/
opaque inputRefresh : ControllerState → PrivateState → Memory → PeripheralAnswer

/-- `dma.service`: from the space alone, the engine having no private state; the cycle bus is ignored (44 R233). -/
opaque dmaService : Memory → List Write

/-- `ppu.commit_scanline`: from the PPU and the space (44 R234). -/
opaque ppuCommit : PrivateState → Memory → PeripheralAnswer

/-- FREE VALUE: what `ir` holds after a reset event (70 R316, 93 U9; log entry 9). -/
opaque freeIr : Nat → Descriptor

/-- FREE VALUE: what `base` holds after a reset event (70 R316, 93 U9; log entry 9). -/
opaque freeBase : Nat → Byte

/-- FREE VALUE: what `cost` holds after a reset event (70 R316, 93 U9; log entry 9). -/
opaque freeCost : Nat → Nat

/-- FREE VALUE: `line + 1` where `line` is 255, a sum the spec states no 8-bit result of (43 R198, R207; log entry 14). -/
opaque freeLine : Nat → BitVec 8

/-- FREE VALUE: the CPU when a reset cuts one of its calls short (93 U6; log entry 10). -/
opaque abandonedCpu : Nat → Cpu

/-- FREE VALUE: a peripheral's private state when a reset cuts its call short (93 U6; log entry 10). -/
opaque abandonedOwn : Nat → PrivateState

end Config

end Sys2Proof
end

