-- ==== Sys2Proof/Syntax.lean ====
section
/-!
DEFINITION. The operations of the block: one constructor per row of spec/opcode_table.json, five host commands
(30 R92) and twenty-four micro-operations (30 R96).
-/

namespace Sys2Proof

/-- The operations of the Master block. The first five are the host commands (format CMD), the others the
micro-operations (format UOP, the values of `seq`), in the order of their codes. -/
inductive Instr where
  /-- `NOP`, 45 R250 -/
  | nop
  /-- `STEP`, 41 R130 -/
  | step
  /-- `FRAME`, 43 R190 -/
  | frame
  /-- `CONT`, 45 R252 -/
  | cont
  /-- `SETFLAGS`, 45 R251, with its 4-bit operand (30 R95) -/
  | setflags (arg : BitVec 4)
  /-- `IDLE`, 45 R256 -/
  | idle
  /-- `U_IRQ`, 41 R131 -/
  | uIrq
  /-- `U_CLRX`, 41 R132 -/
  | uClrx
  /-- `U_FETCH`, 41 R133 -/
  | uFetch
  /-- `U_SSTEP`, 41 R134 -/
  | uSstep
  /-- `U_ACC`, 41 R135 -/
  | uAcc
  /-- `U_TIMER`, 41 R136 -/
  | uTimer
  /-- `U_INPUT`, 41 R137 -/
  | uInput
  /-- `U_IME`, 41 R138 -/
  | uIme
  /-- `U_EXEC`, 41 R139 -/
  | uExec
  /-- `U_DMA`, 41 R140 -/
  | uDma
  /-- `U_RETIRE`, 41 R141 -/
  | uRetire
  /-- `M_EVAL`, 42 R162 -/
  | mEval
  /-- `F_START`, 43 R191 -/
  | fStart
  /-- `L_ENTRY`, 43 R192 -/
  | lEntry
  /-- `L_TEST`, 43 R193 -/
  | lTest
  /-- `L_COMMIT`, 43 R195 -/
  | lCommit
  /-- `L_INC`, 43 R196 -/
  | lInc
  /-- `L_PAUSE`, 43 R197 -/
  | lPause
  /-- `L_NEXT`, 43 R198 -/
  | lNext
  /-- `V_ENTRY`, 43 R199 -/
  | vEntry
  /-- `F_PAUSE`, 43 R201 -/
  | fPause
  /-- `F_END`, 43 R202 -/
  | fEnd
  /-- `FATAL`, 60 R271 -/
  | fatal
deriving DecidableEq, Repr

end Sys2Proof
end

