-- ==== Sys2Proof/WellFormed.lean ====
section
/-!
DEFINITION. The checks: which command words are defined (30 R91, R92), which instructions are well formed (all of them:
the only operand has exactly the width of its field), and which parameters are an instance of the block (00 R5, 93 U13).
-/

namespace Sys2Proof

/-- A command word the spec defines: the operand field is zero in the four operand-less commands, and the opcode is at
most 4 (30 R91, R92). The other 236 words are reserved (30 R94). -/
def commandWordDefined (w : Byte) : Bool :=
  w == 0x00 || w == 0x10 || w == 0x20 || w == 0x30 || (w &&& 0xF0) == 0x40

/-- Every instruction is well formed: SETFLAGS's operand is a `BitVec 4`, so it fills `cmd[3:0]` exactly (30 R95) and an
ill-formed one cannot be written down; the other operations have no operand. -/
def Instr.wellFormed : Instr → Bool
  | .setflags _ => true
  | .nop | .step | .frame | .cont => true
  | .idle | .uIrq | .uClrx | .uFetch | .uSstep | .uAcc | .uTimer | .uInput | .uIme | .uExec | .uDma | .uRetire => true
  | .mEval | .fStart | .lEntry | .lTest | .lCommit | .lInc | .lPause | .lNext | .vEntry | .fPause | .fEnd | .fatal => true

namespace Params

/-- The nine register addresses, pairwise distinct by 00 R5. -/
def addresses (p : Params) : List Addr :=
  [p.aIE, p.aIF, p.aSTAT, p.aLY, p.aLYC, p.aJOYP, p.aDIV, p.aTIMA, p.aDMA]

/-- The three request-bit numbers, pairwise distinct and below 5 by 00 R5. -/
def requestBits (p : Params) : List (Fin 8) := [p.ifVblank, p.ifStat, p.ifTimer]

/-- The four select-bit numbers, pairwise distinct and in 2..7 by 00 R5. -/
def selectBits (p : Params) : List (Fin 8) := [p.statSelHblank, p.statSelVblank, p.statSelPt, p.statSelLyc]

/-- The four mode codes, pairwise distinct by 00 R5. -/
def modeCodes (p : Params) : List (BitVec 2) := [p.codeHblank, p.codeVblank, p.codeOamScan, p.codePixelTransfer]

/-- The constraints of 00 R5; parameters outside them are no instance of the block (93 U13). -/
def wellFormed (p : Params) : Bool :=
  decide (1 ≤ p.scanlineCycleBudget) && decide (1 ≤ p.vblankLines) && decide (p.oamEnd ≤ p.hblankStart)
    && decide p.addresses.Nodup
    && decide p.requestBits.Nodup && p.requestBits.all (fun i => decide (i.val < 5))
    && decide p.selectBits.Nodup && p.selectBits.all (fun i => decide (2 ≤ i.val))
    && decide p.modeCodes.Nodup

end Params

end Sys2Proof
end

