-- ==== Sys2Proof/Decode.lean ====
section
/-!
DEFINITION. Decoding and encoding (30_encoding.md). The command port's decoder is total on all 256 words (30 R108); the
sequencer's codes 0x18 to 0x1F are refused by name (30 R96, 93 U8). The encoder is written from the same tables.
-/

namespace Sys2Proof

/-- Why a word is not an operation. -/
inductive DecodeError where
  /-- a code 0x18 to 0x1F of `seq`, never produced (30 R96, 93 U8) -/
  | unusedSequencerCode
  /-- a value that does not fit the width it is given -/
  | wordTooWide
  /-- a width that is neither of the two formats (30 R90) -/
  | noSuchFormat
deriving DecidableEq, Repr

/-- The command port's decoder (30 R92, R108): the four operand-less words, SETFLAGS by `cmd & 0xF0`, and NOP for every
reserved word (30 R94). -/
def decodeCmd (w : Byte) : Instr :=
  if w = 0x00 then .nop
  else if w = 0x10 then .step
  else if w = 0x20 then .frame
  else if w = 0x30 then .cont
  else if w &&& 0xF0 = 0x40 then .setflags (w.extractLsb' 0 4)
  else .nop

/-- The sequencer's codes (30 R96), total on the 5-bit values; 0x18 to 0x1F are refused. -/
def decodeUop (c : BitVec 5) : Except DecodeError Instr :=
  match c.toNat with
  | 0x00 => .ok .idle
  | 0x01 => .ok .uIrq
  | 0x02 => .ok .uClrx
  | 0x03 => .ok .uFetch
  | 0x04 => .ok .uSstep
  | 0x05 => .ok .uAcc
  | 0x06 => .ok .uTimer
  | 0x07 => .ok .uInput
  | 0x08 => .ok .uIme
  | 0x09 => .ok .uExec
  | 0x0A => .ok .uDma
  | 0x0B => .ok .uRetire
  | 0x0C => .ok .mEval
  | 0x0D => .ok .fStart
  | 0x0E => .ok .lEntry
  | 0x0F => .ok .lTest
  | 0x10 => .ok .lCommit
  | 0x11 => .ok .lInc
  | 0x12 => .ok .lPause
  | 0x13 => .ok .lNext
  | 0x14 => .ok .vEntry
  | 0x15 => .ok .fPause
  | 0x16 => .ok .fEnd
  | 0x17 => .ok .fatal
  | _ => .error .unusedSequencerCode

/-- A table word of one whole byte, read with no knowledge of its format (log entry 17): a defined command word is that
command; another byte that is a sequencer code (its upper three bits zero) is that micro-operation; every other byte is a
reserved command word, NOP. The command port never uses this: it uses `decodeCmd`. -/
def decodeTableByte (w : Byte) : Instr :=
  if commandWordDefined w then decodeCmd w
  else if w.toNat < 24 then
    match decodeUop (w.extractLsb' 0 5) with
    | .ok i => i
    | .error _ => decodeCmd w
  else decodeCmd w

/-- The decoder over the table's two widths (30 R90): 5 bits for a sequencer code, 8 bits for a whole byte. -/
def decodeWord (nbits w : Nat) : Except DecodeError Instr :=
  if nbits = 5 then
    if w < 32 then decodeUop (BitVec.ofNat 5 w) else .error .wordTooWide
  else if nbits = 8 then
    if w < 256 then .ok (decodeTableByte (BitVec.ofNat 8 w)) else .error .wordTooWide
  else .error .noSuchFormat

/-- The instruction the decoder reads from a table word of `nbits` bits; none where it refuses. -/
def decodeTableWord (nbits w : Nat) : Option Instr :=
  match decodeWord nbits w with
  | .ok i => some i
  | .error _ => none

/-- The word of an operation with its width: `(8, word)` for a command (30 R92), `(5, code)` for a micro-operation
(30 R96). -/
def encode : Instr → Nat × Nat
  | .nop => (8, 0x00)
  | .step => (8, 0x10)
  | .frame => (8, 0x20)
  | .cont => (8, 0x30)
  | .setflags arg => (8, 0x40 + arg.toNat)
  | .idle => (5, 0x00)
  | .uIrq => (5, 0x01)
  | .uClrx => (5, 0x02)
  | .uFetch => (5, 0x03)
  | .uSstep => (5, 0x04)
  | .uAcc => (5, 0x05)
  | .uTimer => (5, 0x06)
  | .uInput => (5, 0x07)
  | .uIme => (5, 0x08)
  | .uExec => (5, 0x09)
  | .uDma => (5, 0x0A)
  | .uRetire => (5, 0x0B)
  | .mEval => (5, 0x0C)
  | .fStart => (5, 0x0D)
  | .lEntry => (5, 0x0E)
  | .lTest => (5, 0x0F)
  | .lCommit => (5, 0x10)
  | .lInc => (5, 0x11)
  | .lPause => (5, 0x12)
  | .lNext => (5, 0x13)
  | .vEntry => (5, 0x14)
  | .fPause => (5, 0x15)
  | .fEnd => (5, 0x16)
  | .fatal => (5, 0x17)

end Sys2Proof
end

