-- ==== Sys2Proof/Machine/Defaults.lean ====
section
/-!
DEFINITION. The values the spec supplies without the source: the parameters' defaults (00 R4, 92 D1 to D8, D12, D24), the
fixed number of visible lines (00 R4), what an unlisted byte of the shared address space reads as, and the launch state of
the collaborators (log entries 1, 7, 8).
-/

namespace Sys2Proof.Machine

/-- `VISIBLE_LINES`, the source's own number (00 R4). -/
def visibleLines : Nat := 144

/-- The default parameters (00 R4), with the opaque collaborators behind the ports (44 R243). -/
def defaultParams : Params where
  collaborators := .any
  scanlineCycleBudget := 456
  hblankStart := 252
  oamEnd := 0
  vblankLines := 10
  aIE := 0xFFFF
  aIF := 0xFF0F
  aSTAT := 0xFF41
  aLY := 0xFF44
  aLYC := 0xFF45
  aJOYP := 0xFF00
  aDIV := 0xFF04
  aTIMA := 0xFF05
  aDMA := 0xFF46
  ifVblank := 0
  ifStat := 1
  ifTimer := 2
  statSelHblank := 3
  statSelVblank := 4
  statSelPt := 5
  statSelLyc := 6
  codeHblank := 0
  codeVblank := 1
  codeOamScan := 2
  codePixelTransfer := 3
  resetMode := .vBlank
  hasDebug := true

/-- DESIGN CHOICE (log entry 7): the launch contents of the space are an input of the run (70 R312); a byte nothing has
written reads as zero. -/
def unlistedByte : Byte := 0x00

/-- DESIGN CHOICE (log entry 8): the CPU's launch state is an input of the run (70 R313); these are the values of the one
launch state spec/ writes down (95_test_vectors.md section 2). -/
def launchCpu : Cpu where
  pc := 0x0100
  sp := 0xFFFE
  ime := false
  imePending := none
  extra := 0
  own := ⟨[]⟩

/-- DESIGN CHOICE (log entry 8): a collaborator's private state at launch. -/
def launchPrivate : PrivateState := ⟨[]⟩

/-- DESIGN CHOICE (log entry 8): the external controller state at launch. -/
def launchController : ControllerState := ⟨0⟩

/-- DESIGN CHOICE (log entry 9): `ir` at the model's reset state; the spec leaves it unspecified (10 R47). -/
def launchIr : Descriptor := ⟨0⟩

end Sys2Proof.Machine
end

