-- ==== Sys2Proof/Machine/Memory.lean ====
section
/-!
DEFINITION. The shared address space (20 R60): `MemRead`, `MemWrite` (00 R7) and `SetBit` (20 R64) over the canonical list
of cells, a run of stores in order, and the predicate that says the form holds.
-/

namespace Sys2Proof.Machine

/-- `MemRead(a, 1)` (00 R7, 20 R60): the last value written, or what an unlisted byte reads as (log entry 7). -/
def memRead : Memory → Addr → Byte
  | [], _ => unlistedByte
  | c :: rest, a => if c.1 = a.toNat then c.2 else memRead rest a

/-- Puts a cell into a list sorted by address, before the first cell of a higher address. -/
def insertCell (c : Host.Cell) : Memory → Memory
  | [] => [c]
  | d :: rest => if c.1 < d.1 then c :: d :: rest else d :: insertCell c rest

/-- `MemWrite(a, 1, v)` (00 R7): the old cell goes, and the new one is listed unless it holds what an unlisted byte reads
as, so that equal spaces are equal lists. -/
def memWrite (m : Memory) (a : Addr) (v : Byte) : Memory :=
  let rest := m.filter (fun c => c.1 != a.toNat)
  if v = unlistedByte then rest else insertCell (a.toNat, v) rest

/-- Stores made in the order of the list (20 R68). -/
def memWriteAll (m : Memory) : List Write → Memory
  | [] => m
  | w :: rest => memWriteAll (memWrite m w.addr w.byte) rest

/-- The canonical form: addresses strictly rising and inside the space, and no cell equal to an unlisted byte. -/
abbrev Memory.wf (m : Memory) : Prop :=
  m.Pairwise (fun c d => c.1 < d.1) ∧ ∀ c ∈ m, c.1 < 65536 ∧ c.2 ≠ unlistedByte

end Sys2Proof.Machine
end

