-- ==== Sys2Proof/Machine/State.lean ====
section
/-!
DEFINITION. The state of the machine as plain data (10_state.md): the block's fourteen registers, the shared address space,
the collaborators' state the ports thread, what the host drives, and the instance's parameters; the reasons a step can stop;
and the state after reset.
-/

namespace Sys2Proof.Machine

/-- The sequencer position `seq` (10 R27): the twenty-four values of 30 R96 and no other (93 U8). -/
inductive Uop where
  | idle | uIrq | uClrx | uFetch | uSstep | uAcc | uTimer | uInput | uIme | uExec | uDma | uRetire
  | mEval | fStart | lEntry | lTest | lCommit | lInc | lPause | lNext | vEntry | fPause | fEnd | fatal
deriving DecidableEq, Repr

/-- `phase` (10 R28): Visible = 0, Tail = 1 (30 R101). -/
inductive Phase where
  | visible | tail
deriving DecidableEq, Repr

/-- What the host does at one step of the model (00 R8, 30 R93, 45 R258, R259, 70 R310; log entry 11). -/
inductive HostEvent where
  /-- nothing: the sequencer performs one micro-operation -/
  | quiet
  /-- presents a command word at this step only: where the block is not ready for it, it has no effect and is lost (30 R93,
  70 R328) -/
  | cmd (word : Byte)
  /-- does nothing else until the block is ready for the word, and presents it then (30 R93, R105: the host of a script) -/
  | whenReady (word : Byte)
  /-- asserts `cont_fail` for this step (45 R259) -/
  | contFail
  /-- asserts `rst` (70 R310): between two micro-operations, or inside the one `seq` names after its first `k` stores -/
  | rst (inside : Option Nat)
  /-- the external controller's state changes (44 R232) -/
  | buttons (c : ControllerState)
  /-- writes a byte of the shared address space, the host's own while the block is idle (45 R258) -/
  | poke (a : Addr) (v : Byte)
  /-- sets the CPU's state, the host's own while the block is idle (45 R258) -/
  | setCpu (c : Cpu)
  /-- sets the timer's private state, as above -/
  | setTimer (p : PrivateState)
  /-- sets the input poller's private state, as above -/
  | setInput (p : PrivateState)
  /-- sets the PPU's private state, as above -/
  | setPpu (p : PrivateState)
deriving DecidableEq, Repr

/-- What one `dbg.dump` strobe presents (45 R255). -/
structure Dump where
  stepsExecuted : Nat
  totalCycles : Nat
  scanlineCycleCounter : Nat
  currentMode : Mode
  previousMode : Mode
  flags : BitVec 4
  phase : Phase
  line : BitVec 8
  base : Byte
  ir : Descriptor
  cpu : Cpu
  ie : Byte
  iflag : Byte
  stat : Byte
  ly : Byte
  lyc : Byte
deriving DecidableEq, Repr

/-- The state of the machine. -/
structure State where
  /-- the parameters of the instance (00 R4); no step writes them -/
  params : Params
  /-- `steps_executed` (10 R21) -/
  stepsExecuted : Nat
  /-- `total_cycles` (10 R22) -/
  totalCycles : Nat
  /-- `scanline_cycle_counter` (10 R23) -/
  scanlineCycleCounter : Nat
  /-- `current_mode` (10 R24) -/
  currentMode : Mode
  /-- `previous_mode` (10 R25) -/
  previousMode : Mode
  /-- `flags` (10 R26, 30 R100) -/
  flags : BitVec 4
  /-- `seq` (10 R27) -/
  seq : Uop
  /-- `phase` (10 R28) -/
  phase : Phase
  /-- `line`, 8 bits (10 R20, R28) -/
  line : BitVec 8
  /-- `in_frame` (10 R28) -/
  inFrame : Bool
  /-- `ir` (10 R29) -/
  ir : Descriptor
  /-- `base` (10 R29) -/
  base : Byte
  /-- `cost` (10 R29), also the value on the cycle bus (30 R102) -/
  cost : Nat
  /-- `paused` (10 R30) -/
  paused : Bool
  /-- the shared address space (20 R60), the memory-mapped registers of 10 R32 in it -/
  ram : Memory
  /-- the CPU collaborator (10 R41) -/
  cpu : Cpu
  /-- the timer's private state (44 R231) -/
  timer : PrivateState
  /-- the input poller's private state (44 R232) -/
  input : PrivateState
  /-- the PPU's private output buffer (44 R234) -/
  ppu : PrivateState
  /-- the external controller state of this moment (44 R232) -/
  controller : ControllerState
  /-- what the host does from now on, one event a step but for a `whenReady` that still
  waits; an exhausted list is a quiet host (log entry 11) -/
  host : List HostEvent
  /-- the dumps presented so far, newest first (45 R254; the model's own record, log entry 19) -/
  dumps : List Dump
  /-- how many free values have been drawn (the model's own, log entry 9) -/
  freeCount : Nat
deriving DecidableEq, Repr

/-- The reasons a step can FAULT: none. No micro-operation and no command has a fault, trap or refusal outcome (00 R9,
60 R270); the fatal condition (a) is the sequencer position `fatal` (60 R271). -/
inductive Fault where
deriving DecidableEq, Repr

/-- The reasons a step can be REFUSED. -/
inductive Refusal where
  /-- raised by an arm of `exec` whose instruction has no meaning yet; none is left. Safe: nothing is claimed of it. -/
  | notModelled (mnemonic : String)
  /-- raised by `step` when the host's next event writes the shared address space or a collaborator while the block is not
  idle: the host has no such move (45 R258, 93 U7 `refuse`). Safe: nothing is claimed of such a run (log entry 13). -/
  | hostMoveOutsideIdle
  /-- raised by `step` when the parameters break 00 R5: not an instance of the block (93 U13 `refuse`). Safe: nothing is
  claimed of it (log entry 13). -/
  | notAnInstance
deriving DecidableEq, Repr

/-- The machine right after reset (10 R47, 70 R310), with the launch inputs of log entries 7 and 8 and the latches of log
entry 9. -/
def State.reset : State where
  params := defaultParams
  stepsExecuted := 0
  totalCycles := 0
  scanlineCycleCounter := 0
  currentMode := defaultParams.resetMode
  previousMode := defaultParams.resetMode
  flags := 0
  seq := .idle
  phase := .visible
  line := 0
  inFrame := false
  ir := launchIr
  base := 0
  cost := 0
  paused := false
  ram := []
  cpu := launchCpu
  timer := launchPrivate
  input := launchPrivate
  ppu := launchPrivate
  controller := launchController
  host := []
  dumps := []
  freeCount := 0

end Sys2Proof.Machine
end

