-- ==== Sys2Proof/Machine/Operands.lean ====
section
/-!
DEFINITION. The operands the spec computes and the bit helpers they need: the cycle cost (30 R102), the mode code and the
mode field of STAT (30 R97, R98), single bits of a byte, the vector of an interrupt source (60 R278), the two bytes of the
return address (60 R277), and the step of the scanline register (43 R196).
-/

namespace Sys2Proof.Machine

/-- `1 << i`, a byte with bit `i` alone set (00 R6). -/
def bitMask (i : Fin 8) : Byte := 1#8 <<< i.val

/-- `v[i]` (00 R6). -/
def bitOf (v : Byte) (i : Fin 8) : Bool := v.getLsbD i.val

/-- `v | (1 << i)`, the byte `SetBit` stores (20 R64). -/
def withBit (v : Byte) (i : Fin 8) : Byte := v ||| bitMask i

/-- `v & ~(1 << i)`, the byte a dispatch stores to IF (60 R277). -/
def withoutBit (v : Byte) (i : Fin 8) : Byte := v &&& ~~~(bitMask i)

/-- `cost = zext(base) + zext(extra)`, without wrap (30 R102). -/
def costOf (base extra : Byte) : Nat := base.toNat + extra.toNat

/-- The 2-bit code of a mode (30 R97). -/
def modeCode (p : Params) : Mode → BitVec 2
  | .hBlank => p.codeHblank
  | .vBlank => p.codeVblank
  | .oamScan => p.codeOamScan
  | .pixelTransfer => p.codePixelTransfer

/-- `(stat & 0xFC) | code(m)`: bits 7:2 kept as read, the mode field replaced (42 R163). -/
def withModeField (stat : Byte) (code : BitVec 2) : Byte := (stat &&& 0xFC) ||| code.setWidth 8

/-- `(LY + 1) mod 256` (43 R196), the block's only wrapping addition (43 R207). -/
def nextLine (ly : Byte) : Byte := ly + 1

/-- `vector(i) = 0x0040 + 8 * i` (60 R278). -/
def vector (i : Fin 5) : Addr := 0x0040 + BitVec.ofNat 16 (8 * i.val)

/-- `pc[15:8]` (60 R277). -/
def highByte (a : Addr) : Byte := a.extractLsb' 8 8

/-- `pc[7:0]` (60 R277). -/
def lowByte (a : Addr) : Byte := a.extractLsb' 0 8

/-- An interrupt source as a bit number of IE and IF (60 R272). -/
def sourceBit (i : Fin 5) : Fin 8 := ⟨i.val, by omega⟩

/-- `extra <- call cpu.get_extra()` (44 R237): the accumulator's value, nothing changed. -/
def getExtra (c : Cpu) : Byte := c.extra

/-- The value on the cycle bus of the peripheral ports (44 R230): `cost` of this step's `U_ACC`. -/
def cycleBus (s : State) : Nat := s.cost

/-- `flags <- arg` with no extension, scaling or shift (30 R95). -/
def flagsOperand (arg : BitVec 4) : BitVec 4 := arg

end Sys2Proof.Machine
end

