-- ==== Sys2Proof/Machine/Flags.lean ====
section
/-!
DEFINITION. The bits that act as conditions (10 R31): the stepping flags (10 R26, 45 R260), the mode and the four STAT
conditions (42 R161, R164 to R169), and the qualification of an interrupt (60 R276, R279).
-/

namespace Sys2Proof.Machine

/-- `flags` as the block tests them: hardwired to 0 in a block built without the debug instrumentation (45 R260). -/
def liveFlags (s : State) : BitVec 4 := if s.params.hasDebug then s.flags else 0

/-- `flags.step_by_step`, bit 0 (30 R100). -/
def stepByStep (s : State) : Bool := (liveFlags s).getLsbD 0

/-- `flags.line_by_line`, bit 1 (30 R100). -/
def lineByLine (s : State) : Bool := (liveFlags s).getLsbD 1

/-- `flags.screen_by_screen`, bit 2 (30 R100). -/
def screenByScreen (s : State) : Bool := (liveFlags s).getLsbD 2

/-- `flags.verbose_log`, bit 3 (30 R100). -/
def verboseLog (s : State) : Bool := (liveFlags s).getLsbD 3

/-- The block is held at a pause point (10 R30); a block without the debug instrumentation never is (45 R260). -/
def held (s : State) : Bool := s.params.hasDebug && s.paused

/-- `derive(phase, c)` (42 R161). -/
def deriveMode (p : Params) (phase : Phase) (c : Nat) : Mode :=
  match phase with
  | .tail => .vBlank
  | .visible => if c < p.oamEnd then .oamScan else if c < p.hblankStart then .pixelTransfer else .hBlank

/-- `changed` (42 R164): the mode now differs from the mode of the observation before. -/
def modeChanged (prev m : Mode) : Bool := m != prev

/-- `c_lyc`, the scanline-compare condition (42 R165). -/
def condLyc (p : Params) (stat ly lyc : Byte) (prev : Mode) : Bool :=
  bitOf stat p.statSelLyc && ly == lyc && prev == .hBlank

/-- `c_hbl`, the H-Blank condition (42 R166). -/
def condHblank (p : Params) (stat : Byte) (m : Mode) : Bool := bitOf stat p.statSelHblank && m == .hBlank

/-- `c_vbl`, the V-Blank-via-STAT condition (42 R167). -/
def condVblank (p : Params) (stat : Byte) (m : Mode) : Bool := bitOf stat p.statSelVblank && m == .vBlank

/-- `c_pt`, the pixel-transfer condition (42 R168). -/
def condPt (p : Params) (stat : Byte) (m : Mode) : Bool := bitOf stat p.statSelPt && m == .pixelTransfer

/-- Whether an observation raises the STAT request (42 R169): the mode changed and one of the four conditions holds. -/
def statRaise (p : Params) (stat ly lyc : Byte) (prev m : Mode) : Bool :=
  modeChanged prev m
    && (condLyc p stat ly lyc prev || condHblank p stat m || condVblank p stat m || condPt p stat m)

/-- `pending` (60 R276): the requested and enabled sources, limited to the five of 60 R272 (92 D29). -/
def pendingSources (p : Params) (ram : Memory) : Byte := memRead ram p.aIE &&& memRead ram p.aIF &&& 0x1F

/-- The least source `i` in 0..4 with `pending[i] = 1` (60 R277, R279). -/
def leastSource (pending : Byte) : Option (Fin 5) :=
  if pending.getLsbD 0 then some 0
  else if pending.getLsbD 1 then some 1
  else if pending.getLsbD 2 then some 2
  else if pending.getLsbD 3 then some 3
  else if pending.getLsbD 4 then some 4
  else none

/-- The source a dispatch takes now (60 R276): none while `cpu.ime` is 0 or nothing is pending. -/
def dispatchSource (s : State) : Option (Fin 5) :=
  if s.cpu.ime then leastSource (pendingSources s.params s.ram) else none

end Sys2Proof.Machine
end

