-- ==== Sys2Proof/Machine/Fixture.lean ====
section
/-!
DEFINITION. The stub collaborators of 95_test_vectors.md section 2: not part of the hardware, one set of port functions
that satisfies 44_contract.md, so that the spec's vectors have concrete numbers in the model (44 R243; log entry 3).
-/

namespace Sys2Proof.Machine

/-- `sext_8(e)` to 16 bits, the displacement of the fixture's JR. -/
def signExtend8 (e : Byte) : Addr := e.signExtend 16

/-- The fixture CPU's `fetch_decode`: `Instr` is the opcode byte; costs 4, 4, 8 + 4, 16; JR adds its 4 extra cycles at
decode time. -/
def fixtureDecode (opcode : Byte) (c : Cpu) : DecodeAnswer where
  ir := ⟨opcode.toNat⟩
  base := if opcode = 0x18 then 8 else if opcode = 0xC3 then 16 else 4
  further := 0
  added := if opcode = 0x18 then 4 else 0
  sp := c.sp
  ime := c.ime
  own := c.own

/-- The fixture CPU's `execute`: EI requests an enable, JR and JP move the pc, every other byte does nothing. -/
def fixtureExecute (ir : Descriptor) (c : Cpu) (m : Memory) : ExecuteAnswer :=
  if ir.code = 0xFB then ⟨{ c with imePending := some true }, []⟩
  else if ir.code = 0x18 then ⟨{ c with pc := c.pc + 1 + signExtend8 (memRead m c.pc) }, []⟩
  else if ir.code = 0xC3 then ⟨{ c with pc := memRead m (c.pc + 1) ++ memRead m c.pc }, []⟩
  else ⟨c, []⟩

/-- The fixture timer: its private sum grows by the cost, and it writes nothing. -/
def fixtureTimer (n : Nat) (own : PrivateState) : PeripheralAnswer := ⟨⟨[own.words.headD 0 + n]⟩, []⟩

/-- The fixture input poller does nothing. -/
def fixtureInput (own : PrivateState) : PeripheralAnswer := ⟨own, []⟩

/-- The fixture DMA engine does nothing. -/
def fixtureDma : List Write := []

/-- The fixture PPU appends the byte at `A_LY` to its private list of lines. -/
def fixturePpu (p : Params) (own : PrivateState) (m : Memory) : PeripheralAnswer :=
  ⟨⟨own.words ++ [(memRead m p.aLY).toNat]⟩, []⟩

end Sys2Proof.Machine
end

