-- ==== Sys2Proof/Machine/Ports.lean ====
section
/-!
DEFINITION. The collaborator ports (10 R44, 44_contract.md): each answers with the opaque collaborator of Config, or with
the fixture where the instance names it (44 R243). Every call returns (log entry 2).
-/

namespace Sys2Proof.Machine

/-- `cpu.fetch_decode` (44 R235), given the opcode byte and the CPU with its pc one byte further. -/
def portDecode (p : Params) (opcode : Byte) (c : Cpu) (m : Memory) : DecodeAnswer :=
  match p.collaborators with
  | .any => Config.cpuDecode opcode c m
  | .fixture => fixtureDecode opcode c

/-- `cpu.execute` (44 R236). -/
def portExecute (p : Params) (ir : Descriptor) (c : Cpu) (m : Memory) : ExecuteAnswer :=
  match p.collaborators with
  | .any => Config.cpuExecute ir c m
  | .fixture => fixtureExecute ir c m

/-- `timer.advance` (44 R231). -/
def portTimer (p : Params) (n : Nat) (own : PrivateState) (m : Memory) : PeripheralAnswer :=
  match p.collaborators with
  | .any => Config.timerAdvance n own m
  | .fixture => fixtureTimer n own

/-- `input.refresh` (44 R232). -/
def portInput (p : Params) (sample : ControllerState) (own : PrivateState) (m : Memory) : PeripheralAnswer :=
  match p.collaborators with
  | .any => Config.inputRefresh sample own m
  | .fixture => fixtureInput own

/-- `dma.service` (44 R233). -/
def portDma (p : Params) (m : Memory) : List Write :=
  match p.collaborators with
  | .any => Config.dmaService m
  | .fixture => fixtureDma

/-- `ppu.commit_scanline` (44 R234). -/
def portCommit (p : Params) (own : PrivateState) (m : Memory) : PeripheralAnswer :=
  match p.collaborators with
  | .any => Config.ppuCommit own m
  | .fixture => fixturePpu p own m

end Sys2Proof.Machine
end

