-- ==== Sys2Proof/Machine/Ops.lean ====
section
/-!
DEFINITION. The shared operations: the sequencer's position, the registers in the shared address space, `SetBit`, TAKING AN
INTERRUPT (the dispatch contract, 60 R276 to R281) and what the block fixes of the return from one (44 R238, 60 R285), the
pause points (45 R253), and the dump (45 R254, R255).
-/

namespace Sys2Proof.Machine

/-- `seq <- u` (00 R7). -/
def goto (u : Uop) (s : State) : State := { s with seq := u }

/-- The space after stores made in order (20 R68). -/
def storeAll (ws : List Write) (s : State) : State := { s with ram := memWriteAll s.ram ws }

/-- `MemRead(a, 1)` in a state (00 R7). -/
def readByte (s : State) (a : Addr) : Byte := memRead s.ram a

/-- The store of `SetBit(a, i)` (20 R64): the byte as read from `m`, with bit `i` set. -/
def setBitWrite (m : Memory) (a : Addr) (i : Fin 8) : Write := ⟨a, withBit (memRead m a) i⟩

/-- The micro-operation at a sequencer position (30 R96). -/
def uopInstr : Uop → Instr
  | .idle => .idle
  | .uIrq => .uIrq
  | .uClrx => .uClrx
  | .uFetch => .uFetch
  | .uSstep => .uSstep
  | .uAcc => .uAcc
  | .uTimer => .uTimer
  | .uInput => .uInput
  | .uIme => .uIme
  | .uExec => .uExec
  | .uDma => .uDma
  | .uRetire => .uRetire
  | .mEval => .mEval
  | .fStart => .fStart
  | .lEntry => .lEntry
  | .lTest => .lTest
  | .lCommit => .lCommit
  | .lInc => .lInc
  | .lPause => .lPause
  | .lNext => .lNext
  | .vEntry => .vEntry
  | .fPause => .fPause
  | .fEnd => .fEnd
  | .fatal => .fatal

/-- The sequencer position of a micro-operation; a command has none (30 R107). -/
def instrUop : Instr → Option Uop
  | .nop | .step | .frame | .cont | .setflags _ => none
  | .idle => some .idle
  | .uIrq => some .uIrq
  | .uClrx => some .uClrx
  | .uFetch => some .uFetch
  | .uSstep => some .uSstep
  | .uAcc => some .uAcc
  | .uTimer => some .uTimer
  | .uInput => some .uInput
  | .uIme => some .uIme
  | .uExec => some .uExec
  | .uDma => some .uDma
  | .uRetire => some .uRetire
  | .mEval => some .mEval
  | .fStart => some .fStart
  | .lEntry => some .lEntry
  | .lTest => some .lTest
  | .lCommit => some .lCommit
  | .lInc => some .lInc
  | .lPause => some .lPause
  | .lNext => some .lNext
  | .vEntry => some .vEntry
  | .fPause => some .fPause
  | .fEnd => some .fEnd
  | .fatal => some .fatal

/-- The stores of a dispatch of source `i`, in order (60 R277): the request bit cleared, then the return address pushed,
high byte first, `cpu.sp` lowered before each store and wrapping modulo 65,536. -/
def interruptWrites (i : Fin 5) (s : State) : List Write :=
  [ ⟨s.params.aIF, withoutBit (readByte s s.params.aIF) (sourceBit i)⟩,
    ⟨s.cpu.sp - 1, highByte s.cpu.pc⟩,
    ⟨s.cpu.sp - 2, lowByte s.cpu.pc⟩ ]

/-- The stores `cpu.dispatch` makes now: none where no source qualifies (60 R276). -/
def dispatchWrites (s : State) : List Write :=
  match dispatchSource s with
  | none => []
  | some i => interruptWrites i s

/-- TAKING AN INTERRUPT, `cpu.dispatch` (60 R276 to R281): where a source qualifies, its request bit is cleared, the return
address pushed, the pc set to the vector and the master enable cleared, `cpu.ime_pending` left as it is; where none does,
nothing at all changes. DESIGN CHOICE (log entry 27): the CPU adds nothing to `cpu.extra` here; 60 R282 leaves open
whether it does, and `U_CLRX` clears the accumulator next. -/
def takeInterrupt (s : State) : State :=
  match dispatchSource s with
  | none => s
  | some i =>
    { storeAll (interruptWrites i s) s with
      cpu := { s.cpu with pc := vector i, sp := s.cpu.sp - 2, ime := false } }

/-- `cpu.apply_ime` (44 R238): the pending change of the master enable takes effect. It is the block's part in the return
from an interrupt; the return instruction itself is the CPU's (60 R285). -/
def applyIme (c : Cpu) : Cpu :=
  match c.imePending with
  | none => c
  | some v => { c with ime := v, imePending := none }

/-- `pause(P)` (45 R253) as the micro-operation `p` with successor `next`: held, nothing changes; on arrival with the flag
set, `paused <- 1` and the sequencer stays at `p`; with the flag clear it goes on. -/
def pauseAt (p : Uop) (flag : Bool) (next : Uop) (s : State) : State :=
  if held s then s
  else if flag then { s with paused := true, seq := p }
  else goto next s

/-- Where a released pause continues (45 R253): the successor of the pause point. Elsewhere there is nothing to release. -/
def pauseSuccessor : Uop → Uop
  | .uSstep => .uAcc
  | .lPause => .lNext
  | .fPause => .fEnd
  | u => u

/-- The fields one dump presents (45 R255). -/
def dumpOf (s : State) : Dump where
  stepsExecuted := s.stepsExecuted
  totalCycles := s.totalCycles
  scanlineCycleCounter := s.scanlineCycleCounter
  currentMode := s.currentMode
  previousMode := s.previousMode
  flags := s.flags
  phase := s.phase
  line := s.line
  base := s.base
  ir := s.ir
  cpu := s.cpu
  ie := readByte s s.params.aIE
  iflag := readByte s s.params.aIF
  stat := readByte s s.params.aSTAT
  ly := readByte s s.params.aLY
  lyc := readByte s s.params.aLYC

/-- `call dbg.dump()` (45 R254) at the arrival of `U_SSTEP` with both flags set (41 R134): one dump, no other change. -/
def dumpOnArrival (s : State) : State :=
  if !held s && stepByStep s && verboseLog s then { s with dumps := dumpOf s :: s.dumps } else s

end Sys2Proof.Machine
end

