-- ==== Sys2Proof/Machine/Commands.lean ====
section
/-!
DEFINITION. The five host commands (30 R92, 45_debug_host.md) and the condition under which the port takes a word (30 R93).
A command that is not taken has no effect.
-/

namespace Sys2Proof.Machine

/-- The words taken while paused (30 R93): all but STEP and FRAME. -/
def takenWhilePaused : Instr → Bool
  | .step | .frame => false
  | _ => true

/-- Whether the block is ready for a command (30 R93): in IDLE every one; while paused NOP, CONT, SETFLAGS and reserved
words; in every other state, FATAL included, none. -/
def commandReady (s : State) (i : Instr) : Bool :=
  if s.seq = .idle then true
  else if s.seq = .fatal then false
  else s.paused && takenWhilePaused i

/-- STEP (41 R130): `in_frame <- 0; seq <- U_IRQ`. -/
def beginStep (s : State) : State :=
  if commandReady s .step then { s with inFrame := false, seq := .uIrq } else s

/-- FRAME (43 R190): `seq <- F_START`. -/
def beginFrame (s : State) : State :=
  if commandReady s .frame then goto .fStart s else s

/-- CONT (45 R252, R253): a held block leaves its pause and its micro-operation completes; else nothing. Without the debug
instrumentation it is a NOP (45 R260). -/
def releasePause (s : State) : State :=
  if commandReady s .cont && held s then { s with paused := false, seq := pauseSuccessor s.seq } else s

/-- SETFLAGS (45 R251): `flags <- arg`. Without the debug instrumentation it is a NOP (45 R260). -/
def putFlags (arg : BitVec 4) (s : State) : State :=
  if commandReady s (.setflags arg) && s.params.hasDebug then { s with flags := flagsOperand arg } else s

/-- The effect of a taken command word (45 R256). -/
def commandEffect (i : Instr) (s : State) : State :=
  match i with
  | .step => beginStep s
  | .frame => beginFrame s
  | .cont => releasePause s
  | .setflags arg => putFlags arg s
  | _ => s

/-- `NOP` (45 R250): nothing. -/
def execNop (s : State) : Host.Outcome State Fault Refusal := .next s

/-- `STEP` (41 R130). -/
def execStep (s : State) : Host.Outcome State Fault Refusal := .next (beginStep s)

/-- `FRAME` (43 R190). -/
def execFrame (s : State) : Host.Outcome State Fault Refusal := .next (beginFrame s)

/-- `CONT` (45 R252). -/
def execCont (s : State) : Host.Outcome State Fault Refusal := .next (releasePause s)

/-- `SETFLAGS` (45 R251). -/
def execSetflags (arg : BitVec 4) (s : State) : Host.Outcome State Fault Refusal := .next (putFlags arg s)

/-- The command word the host presents to a block that is ready for it, and what the host does after (30 R93). -/
def presentedWord : List HostEvent → Option (Byte × List HostEvent)
  | .cmd w :: rest => some (w, rest)
  | .whenReady w :: rest => some (w, rest)
  | _ => none

/-- `IDLE` (45 R256): with a command presented, takes it; with none, the state does not change. -/
def execIdle (s : State) : Host.Outcome State Fault Refusal :=
  match presentedWord s.host with
  | some (w, rest) => .next (commandEffect (decodeCmd w) { s with host := rest })
  | none => .next s

/-- `FATAL` (60 R271): no micro-operation is performed, all state keeps its value, only a reset leaves it. -/
def execFatal (s : State) : Host.Outcome State Fault Refusal := .next s

end Sys2Proof.Machine
end

