-- ==== Sys2Proof/Machine/Frame.lean ====
section
/-!
DEFINITION. The ten micro-operations of a frame (43_frame.md).
-/

namespace Sys2Proof.Machine

/-- The store of `F_START` (43 R191): LY is written with 0. -/
def frameStartWrite (s : State) : Write := ⟨s.params.aLY, 0⟩

/-- `F_START` (43 R191). -/
def execFStart (s : State) : Host.Outcome State Fault Refusal :=
  .next { storeAll [frameStartWrite s] s with line := 0, phase := .visible, inFrame := true, seq := .lEntry }

/-- `L_ENTRY` (43 R192): the excess of the line before is dropped. -/
def execLEntry (s : State) : Host.Outcome State Fault Refusal :=
  .next { s with scanlineCycleCounter := 0, seq := .lTest }

/-- Where `L_TEST` goes (43 R193). -/
def lineTestTarget (s : State) : Uop :=
  if s.scanlineCycleCounter < s.params.scanlineCycleBudget then .uIrq
  else match s.phase with
    | .visible => .lCommit
    | .tail => .lInc

/-- `L_TEST` (43 R193). -/
def execLTest (s : State) : Host.Outcome State Fault Refusal := .next (goto (lineTestTarget s) s)

/-- What `ppu.commit_scanline()` answers now (44 R234). -/
def commitAnswer (s : State) : PeripheralAnswer := portCommit s.params s.ppu s.ram

/-- `L_COMMIT` (43 R195): `call ppu.commit_scanline()`. -/
def execLCommit (s : State) : Host.Outcome State Fault Refusal :=
  .next { storeAll (commitAnswer s).writes s with ppu := (commitAnswer s).own, seq := .lInc }

/-- The store of `L_INC` (43 R196): a read-modify-write of LY. -/
def lineIncWrite (s : State) : Write := ⟨s.params.aLY, nextLine (readByte s s.params.aLY)⟩

/-- `L_INC` (43 R196). -/
def execLInc (s : State) : Host.Outcome State Fault Refusal :=
  .next (goto (match s.phase with | .visible => .lPause | .tail => .lNext) (storeAll [lineIncWrite s] s))

/-- `L_PAUSE` (43 R197): the line-level pause; no dump. -/
def execLPause (s : State) : Host.Outcome State Fault Refusal := .next (pauseAt .lPause (lineByLine s) .lNext s)

/-- `line + 1` on 8 bits (43 R198, 10 R20). The spec states no result of 255 + 1: a free value (log entry 14). -/
def raisedLine (s : State) : BitVec 8 := if s.line = 255 then Config.freeLine s.freeCount else s.line + 1

/-- How many free values have been drawn after `L_NEXT` (log entry 14). -/
def drawnByNextLine (s : State) : Nat := if s.line = 255 then s.freeCount + 1 else s.freeCount

/-- Where `L_NEXT` goes with the line count already raised to `n` (43 R198); both tests compare numbers (43 R207). -/
def nextLineTarget (s : State) (n : BitVec 8) : Uop :=
  match s.phase with
  | .visible => if n.toNat = visibleLines then .vEntry else .lEntry
  | .tail => if n.toNat = visibleLines + s.params.vblankLines then .fPause else .lEntry

/-- `L_NEXT` (43 R198). -/
def execLNext (s : State) : Host.Outcome State Fault Refusal :=
  .next { s with line := raisedLine s, seq := nextLineTarget s (raisedLine s), freeCount := drawnByNextLine s }

/-- The store of `V_ENTRY` (43 R199): `SetBit(A_IF, IF_VBLANK)`. -/
def vblankWrite (s : State) : Write := setBitWrite s.ram s.params.aIF s.params.ifVblank

/-- `V_ENTRY` (43 R199): unconditional, and no mode is assigned. -/
def execVEntry (s : State) : Host.Outcome State Fault Refusal :=
  .next { storeAll [vblankWrite s] s with phase := .tail, seq := .lEntry }

/-- `F_PAUSE` (43 R201): the screen-level pause; no dump. -/
def execFPause (s : State) : Host.Outcome State Fault Refusal := .next (pauseAt .fPause (screenByScreen s) .fEnd s)

/-- `F_END` (43 R202): `in_frame <- 0; seq <- IDLE`; everything else stays. -/
def execFEnd (s : State) : Host.Outcome State Fault Refusal := .next { s with inFrame := false, seq := .idle }

end Sys2Proof.Machine
end

