-- ==== Sys2Proof/Machine/ModeMachine.lean ====
section
/-!
DEFINITION. The PPU mode state machine (42_mode.md): the one micro-operation `M_EVAL`.
-/

namespace Sys2Proof.Machine

/-- The mode of this observation (42 R161). -/
def observedMode (s : State) : Mode := deriveMode s.params s.phase s.scanlineCycleCounter

/-- The store of the mode field (42 R163), made at every observation. -/
def modeFieldWrite (s : State) : Write :=
  ⟨s.params.aSTAT, withModeField (readByte s s.params.aSTAT) (modeCode s.params (observedMode s))⟩

/-- The space after the mode field is stored; LY, LYC and IF are read from it (42 R162, in the order written). -/
def ramAfterModeField (s : State) : Memory := memWrite s.ram (modeFieldWrite s).addr (modeFieldWrite s).byte

/-- Whether this observation raises the STAT request (42 R164 to R169): the select bits are those of STAT as read before
the mode field was stored. -/
def observationRaises (s : State) : Bool :=
  statRaise s.params (readByte s s.params.aSTAT) (memRead (ramAfterModeField s) s.params.aLY)
    (memRead (ramAfterModeField s) s.params.aLYC) s.previousMode (observedMode s)

/-- The stores of an observation, in order: the mode field, and on a raise `SetBit(A_IF, IF_STAT)` (42 R162, R169). -/
def observationWrites (s : State) : List Write :=
  if observationRaises s then [modeFieldWrite s, setBitWrite (ramAfterModeField s) s.params.aIF s.params.ifStat]
  else [modeFieldWrite s]

/-- `M_EVAL` (42 R162): `current_mode` and `previous_mode` both become the observed mode (42 R170). -/
def execMEval (s : State) : Host.Outcome State Fault Refusal :=
  .next { storeAll (observationWrites s) s with
    currentMode := observedMode s
    previousMode := observedMode s
    seq := .lTest }

end Sys2Proof.Machine
end

