-- ==== Sys2Proof/Machine/StepUops.lean ====
section
/-!
DEFINITION. The eleven micro-operations of one `step` (41_step.md), in their fixed order (41 R142).
-/

namespace Sys2Proof.Machine

/-- `U_IRQ` (41 R131): `call cpu.dispatch()`. No cycles are added (60 R282). -/
def execUIrq (s : State) : Host.Outcome State Fault Refusal := .next (goto .uClrx (takeInterrupt s))

/-- `U_CLRX` (41 R132, 44 R237): `cpu.extra <- 0` and nothing else. -/
def execUClrx (s : State) : Host.Outcome State Fault Refusal :=
  .next { s with cpu := { s.cpu with extra := 0 }, seq := .uFetch }

/-- The CPU with its pc past the opcode byte, modulo 65,536 (44 R235 (b), 10 R43). -/
def pastOpcode (c : Cpu) : Cpu := { c with pc := c.pc + 1 }

/-- What `cpu.fetch_decode` answers now (44 R235): the opcode is the byte at `cpu.pc`. -/
def fetchAnswer (s : State) : DecodeAnswer :=
  portDecode s.params (readByte s s.cpu.pc) (pastOpcode s.cpu) s.ram

/-- The CPU after `cpu.fetch_decode` (44 R235; log entry 5): the pc at least one byte further, the extra cycles added, and
`cpu.ime_pending` untouched. -/
def cpuAfterFetch (s : State) : Cpu where
  pc := s.cpu.pc + 1 + (fetchAnswer s).further
  sp := (fetchAnswer s).sp
  ime := (fetchAnswer s).ime
  imePending := s.cpu.imePending
  extra := s.cpu.extra + (fetchAnswer s).added
  own := (fetchAnswer s).own

/-- `U_FETCH` (41 R133): `(ir, base) <- call cpu.fetch_decode()`. Nothing is stored to the space (44 R235 (e)). -/
def execUFetch (s : State) : Host.Outcome State Fault Refusal :=
  .next { s with cpu := cpuAfterFetch s, ir := (fetchAnswer s).ir, base := (fetchAnswer s).base, seq := .uSstep }

/-- `U_SSTEP` (41 R134): the dump and the single-step pause. -/
def execUSstep (s : State) : Host.Outcome State Fault Refusal :=
  .next (pauseAt .uSstep (stepByStep s) .uAcc (dumpOnArrival s))

/-- `U_ACC` (41 R135): the cost, added to both counters. -/
def execUAcc (s : State) : Host.Outcome State Fault Refusal :=
  let cost := costOf s.base (getExtra s.cpu)
  .next { s with
    cost := cost
    totalCycles := s.totalCycles + cost
    scanlineCycleCounter := s.scanlineCycleCounter + cost
    seq := .uTimer }

/-- What `timer.advance(cost)` answers now (44 R231). -/
def timerAnswer (s : State) : PeripheralAnswer := portTimer s.params (cycleBus s) s.timer s.ram

/-- `U_TIMER` (41 R136): `call timer.advance(cost)`. -/
def execUTimer (s : State) : Host.Outcome State Fault Refusal :=
  .next { storeAll (timerAnswer s).writes s with timer := (timerAnswer s).own, seq := .uInput }

/-- What `input.refresh()` answers now, from the controller state of this moment (44 R232). -/
def inputAnswer (s : State) : PeripheralAnswer := portInput s.params s.controller s.input s.ram

/-- `U_INPUT` (41 R137): `call input.refresh()`. -/
def execUInput (s : State) : Host.Outcome State Fault Refusal :=
  .next { storeAll (inputAnswer s).writes s with input := (inputAnswer s).own, seq := .uIme }

/-- `U_IME` (41 R138): `call cpu.apply_ime()`. -/
def execUIme (s : State) : Host.Outcome State Fault Refusal :=
  .next { s with cpu := applyIme s.cpu, seq := .uExec }

/-- What `cpu.execute(ir)` answers now (44 R236). -/
def executeAnswer (s : State) : ExecuteAnswer := portExecute s.params s.ir s.cpu s.ram

/-- `U_EXEC` (41 R139): `call cpu.execute(ir)`. -/
def execUExec (s : State) : Host.Outcome State Fault Refusal :=
  .next { storeAll (executeAnswer s).writes s with cpu := (executeAnswer s).cpu, seq := .uDma }

/-- The stores `dma.service()` makes now (44 R233). -/
def dmaWrites (s : State) : List Write := portDma s.params s.ram

/-- `U_DMA` (41 R140): `call dma.service()`. -/
def execUDma (s : State) : Host.Outcome State Fault Refusal := .next (goto .uRetire (storeAll (dmaWrites s) s))

/-- `U_RETIRE` (41 R141): the step is counted, and the sequencer returns by `in_frame` (43 R194). -/
def execURetire (s : State) : Host.Outcome State Fault Refusal :=
  .next { s with stepsExecuted := s.stepsExecuted + 1, seq := if s.inFrame then .mEval else .idle }

end Sys2Proof.Machine
end

