-- ==== Sys2Proof/Machine/Dispatch.lean ====
section
/-!
DEFINITION. One arm per operation: each is one direct call of its meaning.
-/

namespace Sys2Proof.Machine

/-- The meaning of an operation in a state. -/
def exec (i : Instr) (s : State) : Host.Outcome State Fault Refusal :=
  match i with
  | .nop => Sys2Proof.Machine.execNop s
  | .step => Sys2Proof.Machine.execStep s
  | .frame => Sys2Proof.Machine.execFrame s
  | .cont => Sys2Proof.Machine.execCont s
  | .setflags arg => Sys2Proof.Machine.execSetflags arg s
  | .idle => Sys2Proof.Machine.execIdle s
  | .uIrq => Sys2Proof.Machine.execUIrq s
  | .uClrx => Sys2Proof.Machine.execUClrx s
  | .uFetch => Sys2Proof.Machine.execUFetch s
  | .uSstep => Sys2Proof.Machine.execUSstep s
  | .uAcc => Sys2Proof.Machine.execUAcc s
  | .uTimer => Sys2Proof.Machine.execUTimer s
  | .uInput => Sys2Proof.Machine.execUInput s
  | .uIme => Sys2Proof.Machine.execUIme s
  | .uExec => Sys2Proof.Machine.execUExec s
  | .uDma => Sys2Proof.Machine.execUDma s
  | .uRetire => Sys2Proof.Machine.execURetire s
  | .mEval => Sys2Proof.Machine.execMEval s
  | .fStart => Sys2Proof.Machine.execFStart s
  | .lEntry => Sys2Proof.Machine.execLEntry s
  | .lTest => Sys2Proof.Machine.execLTest s
  | .lCommit => Sys2Proof.Machine.execLCommit s
  | .lInc => Sys2Proof.Machine.execLInc s
  | .lPause => Sys2Proof.Machine.execLPause s
  | .lNext => Sys2Proof.Machine.execLNext s
  | .vEntry => Sys2Proof.Machine.execVEntry s
  | .fPause => Sys2Proof.Machine.execFPause s
  | .fEnd => Sys2Proof.Machine.execFEnd s
  | .fatal => Sys2Proof.Machine.execFatal s

end Sys2Proof.Machine
end

