-- ==== Sys2Proof/Machine/HostPort.lean ====
section
/-!
DEFINITION. Who moves next (00 R8): the host's events (30 R93, 45 R258, R259), reset (70 R310, R316), and otherwise the
sequencer's micro-operation. `Step.lean` only calls what stands here.
-/

namespace Sys2Proof.Machine

/-- The stores the micro-operation at `seq` makes, in order, its collaborator's included (20 R63, 44_contract.md). -/
def uopWrites (s : State) : List Write :=
  match s.seq with
  | .uIrq => dispatchWrites s
  | .uTimer => (timerAnswer s).writes
  | .uInput => (inputAnswer s).writes
  | .uExec => (executeAnswer s).writes
  | .uDma => dmaWrites s
  | .mEval => observationWrites s
  | .fStart => [frameStartWrite s]
  | .lCommit => (commitAnswer s).writes
  | .lInc => [lineIncWrite s]
  | .vEntry => [vblankWrite s]
  | _ => []

/-- The micro-operations that call the CPU (10 R44). -/
def callsCpu : Uop → Bool
  | .uIrq | .uClrx | .uFetch | .uAcc | .uIme | .uExec => true
  | _ => false

/-- A micro-operation cut short after its first `k` stores (70 R310, R316): what was stored stays stored, and the
collaborator that was being called is left in a state the spec does not give (93 U6 `any value`: a free value). -/
def abandonUop (k : Nat) (s : State) : State :=
  { storeAll ((uopWrites s).take k) s with
    cpu := if callsCpu s.seq then Config.abandonedCpu s.freeCount else s.cpu
    timer := if s.seq = .uTimer then Config.abandonedOwn s.freeCount else s.timer
    input := if s.seq = .uInput then Config.abandonedOwn s.freeCount else s.input
    ppu := if s.seq = .lCommit then Config.abandonedOwn s.freeCount else s.ppu }

/-- Every register of 10 R20 at its reset value (10 R47); the three latches hold unspecified values (70 R316: free values);
the space and the collaborators are untouched (70 R312, R313). -/
def resetRegisters (s : State) : State :=
  { s with
    stepsExecuted := 0
    totalCycles := 0
    scanlineCycleCounter := 0
    currentMode := s.params.resetMode
    previousMode := s.params.resetMode
    flags := 0
    seq := .idle
    phase := .visible
    line := 0
    inFrame := false
    ir := Config.freeIr s.freeCount
    base := Config.freeBase s.freeCount
    cost := Config.freeCost s.freeCount
    paused := false
    freeCount := s.freeCount + 1 }

/-- The reset input asserted (70 R310): between two micro-operations, or inside the one at `seq` after `k` stores. -/
def applyReset (inside : Option Nat) (s : State) : State :=
  match inside with
  | none => resetRegisters s
  | some k => resetRegisters (abandonUop k s)

/-- What the next step does. -/
inductive Move where
  /-- runs an instruction in a state -/
  | run (i : Instr) (s : State)
  /-- the host moves and the sequencer does not -/
  | host (s : State)
  /-- the host has no such move -/
  | refuse (r : Refusal)

/-- A host move that is open in IDLE only (45 R258, 93 U7). -/
def ownedByHost (s moved : State) : Move :=
  if s.seq = .idle then .host moved else .refuse .hostMoveOutsideIdle

/-- The sequencer performs its micro-operation, the host's event used up; in IDLE no operation is in progress and nothing
is performed (45 R256), so that the host's next event is left for the next step. -/
def performUop (rest : List HostEvent) (s : State) : Move :=
  if s.seq = .idle then .host { s with host := rest } else .run (uopInstr s.seq) { s with host := rest }

/-- A word presented at this step (30 R93): taken where the block is ready for it; elsewhere it has no effect, is not queued
and is lost (70 R328), and the sequencer performs its micro-operation. -/
def offerCommand (w : Byte) (rest : List HostEvent) (s : State) : Move :=
  if commandReady s (decodeCmd w) then .run (decodeCmd w) { s with host := rest } else performUop rest s

/-- A host that waits until the block is ready for a word (30 R93, R105): while it waits it does nothing. -/
def awaitReady (w : Byte) (rest : List HostEvent) (s : State) : Move :=
  if commandReady s (decodeCmd w) then .run (decodeCmd w) { s with host := rest } else .run (uopInstr s.seq) s

/-- `cont_fail` asserted (45 R259, 60 R271): while paused the sequencer goes to FATAL; otherwise it is ignored. -/
def failContinue (rest : List HostEvent) (s : State) : Move :=
  if held s then .host { s with host := rest, seq := .fatal } else performUop rest s

/-- The next move: the host's next event, and the micro-operation at `seq` where the host is quiet (00 R8). -/
def nextMove (s : State) : Move :=
  match s.host with
  | [] => .run (uopInstr s.seq) s
  | .quiet :: rest => performUop rest s
  | .cmd w :: rest => offerCommand w rest s
  | .whenReady w :: rest => awaitReady w rest s
  | .contFail :: rest => failContinue rest s
  | .rst inside :: rest => .host (applyReset inside { s with host := rest })
  | .buttons c :: rest => .host { s with host := rest, controller := c }
  | .poke a v :: rest => ownedByHost s { s with host := rest, ram := memWrite s.ram a v }
  | .setCpu c :: rest => ownedByHost s { s with host := rest, cpu := c }
  | .setTimer p :: rest => ownedByHost s { s with host := rest, timer := p }
  | .setInput p :: rest => ownedByHost s { s with host := rest, input := p }
  | .setPpu p :: rest => ownedByHost s { s with host := rest, ppu := p }

end Sys2Proof.Machine
end

