-- ==== Sys2Proof/Machine/Step.lean ====
section
/-!
DEFINITION. One step of the machine: the host's next move or one micro-operation (00 R8, R9).
-/

namespace Sys2Proof.Machine

/-- One step. Parameters outside 00 R5 are no instance of the block (93 U13). -/
def step (s : State) : Host.Outcome State Fault Refusal :=
  if s.params.wellFormed then
    match nextMove s with
    | .run i s' => exec i s'
    | .host s' => .next s'
    | .refuse r => .refused r
  else .refused .notAnInstance

/-- `s` with the operation of a table word placed where the next step finds it (log entry 18): a micro-operation as the
sequencer position, behind one quiet host event; a command as the next word the host presents, with the block in IDLE
where it would not take the word as it stands. A word the decoder refuses changes nothing. -/
def State.withFetchWord (s : State) (nbits w : Nat) : State :=
  match decodeTableWord nbits w with
  | none => s
  | some i =>
    match instrUop i with
    | some u => { s with seq := u, host := .quiet :: s.host }
    | none =>
      { s with
        seq := if commandReady s i then s.seq else .idle
        host := .cmd (BitVec.ofNat 8 w) :: s.host }

end Sys2Proof.Machine
end

