-- ==== Sys2Proof/Safety.lean ====
section
/-!
DEFINITION. The terms claims are stated in: the invariant of the machine (its parts named), which bytes a list of stores
leaves alone, the machine with its debug facilities taken out (43 R208, 45 R257), and the measure that bounds a frame
(70 R327).
-/

namespace Sys2Proof.Machine

/-- No store of the list goes to `a`. -/
def notStored (ws : List Write) (a : Addr) : Prop := ∀ w ∈ ws, w.addr ≠ a

/-- `previous_mode` lags `current_mode` by one observation, so between observations they are equal (10 R25). -/
def ModesAgree (s : State) : Prop := s.previousMode = s.currentMode

/-- `paused` is 1 only at the three pause points and in FATAL (10 R30, 60 R271), never without the debug instrumentation
(45 R260); FATAL keeps it at 1 (60 R271). -/
def PauseLegal (s : State) : Prop :=
  (s.paused = true → s.params.hasDebug = true ∧ s.seq ∈ [Uop.uSstep, .lPause, .fPause, .fatal])
    ∧ (s.seq = .fatal → s.paused = true)

/-- The positions reached only between `F_START` and `F_END` (43_frame.md). -/
def frameOnly : Uop → Bool
  | .mEval | .lEntry | .lTest | .lCommit | .lInc | .lPause | .lNext | .vEntry | .fPause | .fEnd => true
  | _ => false

/-- The lines and scanline-equivalents of a frame, `VISIBLE_LINES + VBLANK_LINES` (43 R205). -/
def frameLines (s : State) : Nat := visibleLines + s.params.vblankLines

/-- The frame's length fits the 8 bits of `line` (43 R198). -/
abbrev lineFits (s : State) : Prop := frameLines s ≤ 255

/-- `line` inside a frame (10 R28, 43 R198): below `VISIBLE_LINES` while visible, and equal to it only at `V_ENTRY`; from
`VISIBLE_LINES` on in the tail, and at the frame's length only when the frame is over but for its pause; in the tail only
where the frame's length fits 8 bits. -/
def LineLegal (s : State) : Prop :=
  match s.phase with
  | .visible => if s.seq = .vEntry then s.line.toNat = visibleLines else s.line.toNat < visibleLines
  | .tail =>
    lineFits s → visibleLines ≤ s.line.toNat ∧ s.line.toNat ≤ frameLines s
      ∧ (s.seq ≠ .fPause ∧ s.seq ≠ .fEnd ∧ s.seq ≠ .fatal → s.line.toNat < frameLines s)

/-- `in_frame`, `phase` and `line` fit the sequencer position (10 R28, 43 R194 to R202). -/
def FrameLegal (s : State) : Prop :=
  (s.seq = .idle ∨ s.seq = .fStart → s.inFrame = false)
    ∧ (frameOnly s.seq = true → s.inFrame = true)
    ∧ (s.inFrame = true → LineLegal s)
    ∧ (s.seq ∈ [Uop.lCommit, .lPause, .vEntry] → s.phase = .visible)
    ∧ (s.seq ∈ [Uop.fPause, .fEnd] → s.phase = .tail ∧ s.line.toNat = frameLines s)

/-- The scanline-local counter inside a frame (10 R23, 43 R203): below the budget before the cost of each instruction is
added; above it by less than that cost after; and at or above the budget once the line's loop is left. -/
def CounterLegal (s : State) : Prop :=
  s.inFrame = true →
    (s.seq ∈ [Uop.uIrq, .uClrx, .uFetch, .uSstep, .uAcc] → s.scanlineCycleCounter < s.params.scanlineCycleBudget)
    ∧ (s.seq ∈ [Uop.uTimer, .uInput, .uIme, .uExec, .uDma, .uRetire, .mEval, .lTest, .lCommit, .lInc, .lPause, .lNext,
          .vEntry, .fPause, .fEnd] → s.scanlineCycleCounter < s.params.scanlineCycleBudget + s.cost)
    ∧ (s.seq ∈ [Uop.lCommit, .lInc, .lPause, .lNext, .vEntry, .fPause, .fEnd] →
          s.params.scanlineCycleBudget ≤ s.scanlineCycleCounter)

/-- The invariant of the machine. -/
structure Legal (s : State) : Prop where
  memory : Memory.wf s.ram
  modes : ModesAgree s
  pause : PauseLegal s
  frame : FrameLegal s
  counter : CounterLegal s

/-- The machine with its debug facilities taken out (45 R257): flags 0, no pause (a held micro-operation is complete), no
dump, and a host that gives nothing more. -/
def withoutDebug (s : State) : State :=
  { s with
    flags := 0
    paused := false
    seq := if held s then pauseSuccessor s.seq else s.seq
    host := []
    dumps := [] }

/-- A taken STEP or FRAME, the two commands that move the machine (41 R130, 43 R190); nothing for any other word. -/
def movingWord (s : State) (w : Byte) : List HostEvent :=
  if commandReady s (decodeCmd w) && (decodeCmd w == .step || decodeCmd w == .frame) then [.cmd w] else []

/-- What the host of the machine without debug facilities does where the host of `s` does its next event (45 R257): the same
event; but nothing for a word that is not taken, a taken SETFLAGS, CONT, NOP or reserved word, and an ignored `cont_fail`;
and a reset inside a held pause point falls between two micro-operations. -/
def debugFreeEvents (s : State) : List HostEvent :=
  match s.host with
  | [] => []
  | .quiet :: _ => []
  | .contFail :: _ => []
  | .cmd w :: _ => movingWord s w
  | .whenReady w :: _ => movingWord s w
  | .rst inside :: _ => [.rst (if held s then none else inside)]
  | .buttons c :: _ => [.buttons c]
  | .poke a v :: _ => [.poke a v]
  | .setCpu c :: _ => [.setCpu c]
  | .setTimer p :: _ => [.setTimer p]
  | .setInput p :: _ => [.setInput p]
  | .setPpu p :: _ => [.setPpu p]

/-- The machine without debug facilities makes no move where the block is held and the host does nothing to it (45 R253). -/
abbrev standsStill (s : State) : Prop := held s = true ∧ debugFreeEvents s = []

/-- The continue channel fails while the block is held (45 R259). -/
def continueFails (s : State) : Prop := held s = true ∧ ∃ rest, s.host = .contFail :: rest

/-- Every instruction costs at least one cycle, the premise of 70 R327 about the CPU port. -/
def CostsPositive (p : Params) : Prop :=
  ∀ opcode c m, 1 ≤ costOf (portDecode p opcode c m).base (portDecode p opcode c m).added

/-- How many micro-operations can follow before the loop of a line adds the next cost or is left. -/
def loopRank : Uop → Nat
  | .uTimer => 12
  | .uInput => 11
  | .uIme => 10
  | .uExec => 9
  | .uDma => 8
  | .uRetire => 7
  | .mEval => 6
  | .lTest => 5
  | .uIrq => 4
  | .uClrx => 3
  | .uFetch => 2
  | .uSstep => 1
  | _ => 0

/-- The rank of a position inside one line, the line's remaining budget counted 14 for each cycle. -/
def lineRank (s : State) : Nat :=
  let budget := s.params.scanlineCycleBudget
  match s.seq with
  | .vEntry => 14 * budget + 21
  | .lEntry => 14 * budget + 20
  | .lCommit => 4
  | .lInc => 3
  | .lPause => 2
  | .lNext => 1
  | .fPause => 1
  | .fEnd => 0
  | u => 14 * (budget - s.scanlineCycleCounter) + loopRank u + 10

/-- A measure that every micro-operation of an undisturbed frame lowers (70 R327). -/
def frameRank (s : State) : Nat :=
  let perLine := 14 * s.params.scanlineCycleBudget + 40
  if s.seq = .fStart then perLine * (frameLines s + 1)
  else perLine * (frameLines s - s.line.toNat) + lineRank s

end Sys2Proof.Machine
end

