-- ==== Sys2Proof/Certificates/Slice0/Obligations.lean ====
section
/-!
DEFINITION. The statements for the provers. Each docstring names the rule of spec/ it formalises. A frame is written
`t = { s with ram := t.ram, … }`: every field not named in the braces is unchanged.
-/

open Sys2Proof Sys2Proof.Machine

/-! ## Encoding -/

/-- 30 R92, R96: the decoder reads every operation back from the word the tables give it, SETFLAGS at every operand. The
widths of a table word are the model's convention (log entry 17). -/
def Obligations.DecodeOfEncodeIsTheInstruction : Prop :=
  ∀ i : Instr, i.wellFormed = true → decodeTableWord (encode i).1 (encode i).2 = some i

/-- 30 R108, R94: the command port's decoder on all 256 words: the four operand-less words, SETFLAGS with `cmd[3:0]`, and
NOP for the 236 others. -/
def Obligations.CommandDecoderIsTotal : Prop :=
  decodeCmd 0x00 = .nop ∧ decodeCmd 0x10 = .step ∧ decodeCmd 0x20 = .frame ∧ decodeCmd 0x30 = .cont
    ∧ (∀ arg : BitVec 4, decodeCmd (0x4#4 ++ arg) = .setflags arg)
    ∧ (∀ w : Byte, commandWordDefined w = false → decodeCmd w = .nop)
    ∧ ((List.range 256).filter (fun n => !commandWordDefined (BitVec.ofNat 8 n))).length = 236

/-- 30 R92, R96: words written out bit by bit from the spec's tables, one or more of each family. A sanity statement. -/
def Obligations.SpecWordsDecode : Prop :=
  decodeTableWord 8 0b01001010 = some (.setflags 0b1010) ∧ decodeTableWord 8 0b00100000 = some .frame
    ∧ decodeTableWord 5 0b00001 = some .uIrq ∧ decodeTableWord 5 0b01010 = some .uDma
    ∧ decodeTableWord 5 0b01100 = some .mEval ∧ decodeTableWord 5 0b10100 = some .vEntry
    ∧ decodeTableWord 5 0b00000 = some .idle ∧ decodeTableWord 5 0b10111 = some .fatal

/-- 30 R96, R108: the 24 sequencer codes decode each to its micro-operation and to no other, and 0x18 to 0x1F are refused. -/
def Obligations.SequencerCodesAreExactly24 : Prop :=
  (∀ u : Uop, decodeUop (BitVec.ofNat 5 (encode (uopInstr u)).2) = .ok (uopInstr u))
    ∧ (∀ c : BitVec 5, c.toNat < 24 → ∃ u : Uop, decodeUop c = .ok (uopInstr u) ∧ encode (uopInstr u) = (5, c.toNat))
    ∧ (∀ c : BitVec 5, 24 ≤ c.toNat → decodeUop c = .error .unusedSequencerCode)

/-! ## The step, the command port, the host -/

/-- A step with a quiet host runs the micro-operation at `seq` (00 R8); what the step adds is the host event it uses up, in
IDLE that alone (the host as a list of events is the model's form, log entry 11). -/
def Obligations.StepRunsTheMicroOperationAtSeq : Prop :=
  ∀ s : State, s.params.wellFormed = true →
    (s.host = [] → step s = exec (uopInstr s.seq) s)
    ∧ (∀ rest, s.host = .quiet :: rest →
        (s.seq ≠ .idle → step s = exec (uopInstr s.seq) { s with host := rest })
        ∧ (s.seq = .idle → step s = .next { s with host := rest }))

/-- A step with a command word presented, in a state where the block is ready for it, runs the decoded command with the
word used up, whether the host presents it at this step only or waited for it (30 R93, R105; that it is taken in a step of
its own is the model's form, log entry 11). -/
def Obligations.StepRunsThePresentedCommand : Prop :=
  ∀ (s : State) (w : Byte) (rest : List HostEvent), s.params.wellFormed = true →
    (s.host = .cmd w :: rest ∨ s.host = .whenReady w :: rest) →
    commandReady s (decodeCmd w) = true → step s = exec (decodeCmd w) { s with host := rest }

/-- 30 R93: in IDLE every command is taken; while paused only NOP, CONT, SETFLAGS and reserved words; in every other state
none, FATAL included. -/
def Obligations.CommandsTakenExactlyWhereReady : Prop :=
  ∀ (s : State) (w : Byte),
    (s.seq = .idle → commandReady s (decodeCmd w) = true)
    ∧ (s.seq ≠ .idle → s.seq ≠ .fatal → s.paused = true →
        (commandReady s (decodeCmd w) = true ↔ w ≠ 0x10 ∧ w ≠ 0x20))
    ∧ (s.seq ≠ .idle → s.paused = false → commandReady s (decodeCmd w) = false)
    ∧ (s.seq = .fatal → commandReady s (decodeCmd w) = false)

/-- 30 R93, 70 R328: a word that is not taken has no effect and is not queued: the step is the step with a quiet host, and
the word is lost; a host that waits until the block is ready for it presents it still (log entries 11, 16). -/
def Obligations.UntakenCommandHasNoEffect : Prop :=
  ∀ (s : State) (w : Byte) (rest : List HostEvent), commandReady s (decodeCmd w) = false →
    (s.host = .cmd w :: rest → step s = step { s with host := .quiet :: rest })
    ∧ (∀ t, s.host = [] → step s = .next t →
        step { s with host := .whenReady w :: rest } = .next { t with host := .whenReady w :: rest })

/-- 45 R259, 60 R271: `cont_fail` while the block is held takes the sequencer to FATAL, `paused` and all other state as at
the pause; outside a pause it is ignored, the step doing what it does with a quiet host (log entry 11). -/
def Obligations.ContinueFailureIsFatalOnlyWhilePaused : Prop :=
  ∀ (s : State) (rest : List HostEvent), s.params.wellFormed = true → PauseLegal s → s.host = .contFail :: rest →
    (s.paused = true → step s = .next { s with host := rest, seq := .fatal })
    ∧ (s.paused = false → step s = step { s with host := .quiet :: rest })

/-- 60 R271: FATAL performs nothing, and a step that leaves it, or changes anything but what the host itself drives, is a
reset (the self-loop is the model's form, log entry 20). -/
def Obligations.OnlyResetLeavesFatal : Prop :=
  (∀ s : State, exec .fatal s = .next s)
    ∧ ∀ s t : State, s.seq = .fatal → step s = .next t →
        (∃ inside rest, s.host = .rst inside :: rest)
          ∨ t = { s with host := t.host, controller := t.controller }

/-- 70 R310, R312, R313: reset in any state gives every register of the block its reset value; between two
micro-operations the space and the collaborators are untouched. -/
def Obligations.ResetInAnyState : Prop :=
  ∀ (s : State) (inside : Option Nat) (rest : List HostEvent), s.params.wellFormed = true →
    s.host = .rst inside :: rest → ∃ t, step s = .next t
      ∧ t.stepsExecuted = 0 ∧ t.totalCycles = 0 ∧ t.scanlineCycleCounter = 0
      ∧ t.currentMode = s.params.resetMode ∧ t.previousMode = s.params.resetMode
      ∧ t.flags = 0 ∧ t.seq = .idle ∧ t.phase = .visible ∧ t.line = 0 ∧ t.inFrame = false ∧ t.paused = false
      ∧ (inside = none → t.ram = s.ram ∧ t.cpu = s.cpu ∧ t.timer = s.timer ∧ t.input = s.input ∧ t.ppu = s.ppu)

/-- 70 R310, R316: a reset inside `M_EVAL` leaves what it had already written written: nothing, or the mode field, or all
(the number of stores made is the model's form, log entry 10). -/
def Obligations.ResetInsideObservationKeepsItsStores : Prop :=
  ∀ (s : State) (k : Nat) (rest : List HostEvent), s.params.wellFormed = true → s.seq = .mEval →
    s.host = .rst (some k) :: rest → ∃ t u, step s = .next t ∧ exec .mEval s = .next u ∧ t.seq = .idle
      ∧ (k = 0 → ∀ a, readByte t a = readByte s a)
      ∧ (k = 1 → ∀ a, readByte t a = if a = s.params.aSTAT then readByte u a else readByte s a)
      ∧ (2 ≤ k → ∀ a, readByte t a = readByte u a)
      ∧ t.cpu = s.cpu ∧ t.timer = s.timer ∧ t.input = s.input ∧ t.ppu = s.ppu

/-- 45 R258: in IDLE the host may write the shared address space and set the state of a collaborator, and nothing else
changes; elsewhere it has no such move and the step is refused (93 U7; the refusal is the model's reading, log entry 13). -/
def Obligations.HostWritesTheSpaceInIdleOnly : Prop :=
  ∀ (s : State) (rest : List HostEvent), s.params.wellFormed = true →
    (∀ a v, s.host = .poke a v :: rest →
      (s.seq = .idle → ∃ t, step s = .next t ∧ t = { s with host := rest, ram := t.ram } ∧ readByte t a = v
          ∧ ∀ b, b ≠ a → readByte t b = readByte s b)
      ∧ (s.seq ≠ .idle → step s = .refused .hostMoveOutsideIdle))
    ∧ (∀ c, s.host = .setCpu c :: rest →
      (s.seq = .idle → step s = .next { s with host := rest, cpu := c })
      ∧ (s.seq ≠ .idle → step s = .refused .hostMoveOutsideIdle))
    ∧ (∀ p, s.host = .setTimer p :: rest →
      (s.seq = .idle → step s = .next { s with host := rest, timer := p })
      ∧ (s.seq ≠ .idle → step s = .refused .hostMoveOutsideIdle))
    ∧ (∀ p, s.host = .setInput p :: rest →
      (s.seq = .idle → step s = .next { s with host := rest, input := p })
      ∧ (s.seq ≠ .idle → step s = .refused .hostMoveOutsideIdle))
    ∧ (∀ p, s.host = .setPpu p :: rest →
      (s.seq = .idle → step s = .next { s with host := rest, ppu := p })
      ∧ (s.seq ≠ .idle → step s = .refused .hostMoveOutsideIdle))

/-! ## Commands -/

/-- 45 R250: NOP is word 0x00 and every reserved word, is taken in IDLE and while paused, and changes nothing. -/
def Obligations.NopChangesNothing : Prop :=
  (decodeCmd 0x00 = .nop ∧ ∀ w : Byte, commandWordDefined w = false → decodeCmd w = .nop)
    ∧ ∀ s : State, (s.seq = .idle ∨ s.paused = true ∧ s.seq ≠ .fatal → commandReady s .nop = true) ∧ exec .nop s = .next s

/-- 41 R130: STEP in IDLE: `in_frame <- 0; seq <- U_IRQ`, and nothing else. -/
def Obligations.StepCommandBeginsOneStep : Prop :=
  ∀ s : State, s.seq = .idle → exec .step s = .next { s with inFrame := false, seq := .uIrq }

/-- 43 R190: FRAME in IDLE: `seq <- F_START`, and nothing else. -/
def Obligations.FrameCommandBeginsOneFrame : Prop :=
  ∀ s : State, s.seq = .idle → exec .frame s = .next { s with seq := .fStart }

/-- 45 R252, R253: CONT releases the pause the block is held at and the held micro-operation completes (it has
nothing left to do but go on, log entry 12); not paused, it is a NOP. -/
def Obligations.ContReleasesThePause : Prop :=
  ∀ s : State, s.params.hasDebug = true →
    (s.paused = true → s.seq = .uSstep → exec .cont s = .next { s with paused := false, seq := .uAcc })
    ∧ (s.paused = true → s.seq = .lPause → exec .cont s = .next { s with paused := false, seq := .lNext })
    ∧ (s.paused = true → s.seq = .fPause → exec .cont s = .next { s with paused := false, seq := .fEnd })
    ∧ (s.paused = false → exec .cont s = .next s)

/-- 45 R251, 30 R95, R100: SETFLAGS in IDLE or while paused copies its operand to `flags`, bit for bit, and writes nothing
else: in particular it does not release a pause. -/
def Obligations.SetflagsCopiesItsOperand : Prop :=
  ∀ (s : State) (arg : BitVec 4), s.params.hasDebug = true →
    (s.seq = .idle ∨ s.paused = true ∧ s.seq ≠ .fatal) →
    ∃ t, exec (.setflags arg) s = .next t ∧ t = { s with flags := t.flags }
      ∧ stepByStep t = arg.getLsbD 0 ∧ lineByLine t = arg.getLsbD 1 ∧ screenByScreen t = arg.getLsbD 2
      ∧ verboseLog t = arg.getLsbD 3 ∧ t.flags = arg

/-- 45 R256: IDLE with no command presented, whatever else the host does, does not change; with one it does what the decoded
command does, the word used up (log entries 11, 16). -/
def Obligations.IdleAnswersThePresentedCommand : Prop :=
  (∀ s : State, (∀ w rest, s.host ≠ .cmd w :: rest) → (∀ w rest, s.host ≠ .whenReady w :: rest) → exec .idle s = .next s)
    ∧ ∀ (s : State) (w : Byte) (rest : List HostEvent), s.seq = .idle →
        (s.host = .cmd w :: rest ∨ s.host = .whenReady w :: rest) →
        exec .idle s = exec (decodeCmd w) { s with host := rest }

/-- 45 R260: a block built without the debug instrumentation: SETFLAGS and CONT behave as NOP, the three pause points fall
through and no dump is made. -/
def Obligations.ProductionBuildNeverPauses : Prop :=
  ∀ s : State, s.params.hasDebug = false →
    (∀ arg, exec (.setflags arg) s = .next s) ∧ exec .cont s = .next s
    ∧ exec .uSstep s = .next { s with seq := .uAcc } ∧ exec .lPause s = .next { s with seq := .lNext }
    ∧ exec .fPause s = .next { s with seq := .fEnd }

/-! ## The step's micro-operations -/

/-- 60 R276, R277, R281: `U_IRQ` with a source to take: its request bit is cleared, the pc pushed high byte first, the pc set
to the vector, the stack pointer lowered by 2, the master enable cleared, `ime_pending` and every other state unchanged.
(That `cpu.extra` is among it is the model's choice, log entry 27.)
The pushes are ordinary stores: IF is as stated where they do not land on it. -/
def Obligations.InterruptDispatchSavesAndVectors : Prop :=
  ∀ (s : State) (i : Fin 5), dispatchSource s = some i →
    ∃ t, exec .uIrq s = .next t
      ∧ t = { s with ram := t.ram, cpu := { s.cpu with pc := 0x0040 + 8 * BitVec.ofNat 16 i.val, sp := s.cpu.sp - 2, ime := false }, seq := .uClrx }
      ∧ readByte t (s.cpu.sp - 1) = s.cpu.pc.extractLsb' 8 8
      ∧ readByte t (s.cpu.sp - 2) = s.cpu.pc.extractLsb' 0 8
      ∧ (s.params.aIF ≠ s.cpu.sp - 1 → s.params.aIF ≠ s.cpu.sp - 2 →
          ∀ j : Fin 8, (readByte t s.params.aIF).getLsbD j.val
            = ((readByte s s.params.aIF).getLsbD j.val && decide (j.val ≠ i.val)))
      ∧ (∀ a, a ≠ s.params.aIF → a ≠ s.cpu.sp - 1 → a ≠ s.cpu.sp - 2 → readByte t a = readByte s a)

/-- 60 R276: `U_IRQ` with the master enable clear, or with no source both requested and enabled among the low five bits:
the call changes nothing at all. -/
def Obligations.NoDispatchChangesNothing : Prop :=
  ∀ s : State, (s.cpu.ime = false ∨ readByte s s.params.aIE &&& readByte s s.params.aIF &&& 0x1F = 0) →
    exec .uIrq s = .next { s with seq := .uClrx }

/-- 60 R276, R279: the source taken is the least `i` in 0..4 whose bit is 1 in both IE and IF, with `cpu.ime` 1. -/
def Obligations.DispatchTakesTheLowestPendingSource : Prop :=
  ∀ (s : State) (i : Fin 5), dispatchSource s = some i ↔
    s.cpu.ime = true
    ∧ (readByte s s.params.aIE).getLsbD i.val = true ∧ (readByte s s.params.aIF).getLsbD i.val = true
    ∧ ∀ j : Fin 5, j.val < i.val →
        ((readByte s s.params.aIE).getLsbD j.val && (readByte s s.params.aIF).getLsbD j.val) = false

/-- 41 R138, 60 R281: `U_IRQ` does not look at the pending master-enable change and leaves it as it is, so a change not yet
applied cannot let an interrupt in. -/
def Obligations.DispatchIgnoresThePendingEnable : Prop :=
  ∀ (s : State) (p : Option Bool), ∃ t, exec .uIrq s = .next t
    ∧ exec .uIrq { s with cpu := { s.cpu with imePending := p } } = .next { t with cpu := { t.cpu with imePending := p } }
    ∧ t.cpu.imePending = s.cpu.imePending

/-- 41 R132, 44 R237: `U_CLRX` clears the extra-cycle accumulator and changes nothing else. -/
def Obligations.ClearExtraClearsOnlyTheAccumulator : Prop :=
  ∀ s : State, exec .uClrx s = .next { s with cpu := { s.cpu with extra := 0 }, seq := .uFetch }

/-- 41 R133, 44 R235: `U_FETCH`, for every byte at `cpu.pc`: the descriptor and the base cost are the CPU port's answer to the
byte at `cpu.pc`, the pc goes at least one byte further modulo 65,536 (by what the port says beyond that), and the space and
the pending enable are unchanged. What else of the CPU changes is the port's answer (log entry 5). -/
def Obligations.FetchReadsTheByteAtPc : Prop :=
  ∀ s : State, ∃ t answer, exec .uFetch s = .next t
    ∧ answer = portDecode s.params (readByte s s.cpu.pc) { s.cpu with pc := s.cpu.pc + 1 } s.ram
    ∧ t = { s with cpu := t.cpu, ir := answer.ir, base := answer.base, seq := .uSstep }
    ∧ t.cpu.pc = s.cpu.pc + 1 + answer.further
    ∧ t.cpu.imePending = s.cpu.imePending
    ∧ t.cpu.extra = s.cpu.extra + answer.added
    ∧ t.cpu.sp = answer.sp ∧ t.cpu.ime = answer.ime ∧ t.cpu.own = answer.own

/-- 41 R134, 45 R253, R254: `U_SSTEP`: with `step_by_step` clear it does nothing; with it set it holds on arrival, with one
dump exactly if `verbose_log` is set; held, nothing changes. -/
def Obligations.SingleStepPause : Prop :=
  ∀ s : State, s.params.hasDebug = true →
    (s.paused = false → s.flags.getLsbD 0 = false → exec .uSstep s = .next { s with seq := .uAcc })
    ∧ (s.paused = false → s.flags.getLsbD 0 = true → ∃ t, exec .uSstep s = .next t
        ∧ t = { s with paused := true, seq := .uSstep, dumps := t.dumps }
        ∧ t.dumps = if s.flags.getLsbD 3 = true then dumpOf s :: s.dumps else s.dumps)
    ∧ (s.paused = true → exec .uSstep s = .next s)

/-- 41 R135, 30 R102: `U_ACC` adds the same cost, base plus extra without wrap (at most 510), to both counters. -/
def Obligations.AccumulateAddsTheCostTwice : Prop :=
  ∀ s : State, ∃ t, exec .uAcc s = .next t
    ∧ t = { s with cost := t.cost, totalCycles := t.totalCycles, scanlineCycleCounter := t.scanlineCycleCounter, seq := .uTimer }
    ∧ t.cost = s.base.toNat + s.cpu.extra.toNat ∧ t.cost ≤ 510
    ∧ t.totalCycles = s.totalCycles + t.cost ∧ t.scanlineCycleCounter = s.scanlineCycleCounter + t.cost

/-- 41 R136, 44 R231: `U_TIMER` advances the timer by `cost`; the bytes that change are those the timer stores to; nothing
else of the machine changes. -/
def Obligations.TimerIsAdvancedByTheCost : Prop :=
  ∀ s : State, ∃ t answer, exec .uTimer s = .next t ∧ answer = portTimer s.params s.cost s.timer s.ram
    ∧ t = { s with ram := t.ram, timer := answer.own, seq := .uInput }
    ∧ t.ram = memWriteAll s.ram answer.writes
    ∧ ∀ a, notStored answer.writes a → readByte t a = readByte s a

/-- 41 R137, 44 R232: `U_INPUT` samples the controller state of this moment; the bytes that change are those the poller
stores to; nothing else of the machine changes. -/
def Obligations.InputIsRefreshedFromTheController : Prop :=
  ∀ s : State, ∃ t answer, exec .uInput s = .next t ∧ answer = portInput s.params s.controller s.input s.ram
    ∧ t = { s with ram := t.ram, input := answer.own, seq := .uIme }
    ∧ t.ram = memWriteAll s.ram answer.writes
    ∧ ∀ a, notStored answer.writes a → readByte t a = readByte s a

/-- 41 R138, 44 R238: `U_IME` applies a pending master-enable change and clears it; with nothing pending, no change. It
touches no other state. -/
def Obligations.PendingEnableIsAppliedAtIme : Prop :=
  ∀ s : State,
    (∀ v, s.cpu.imePending = some v →
        exec .uIme s = .next { s with cpu := { s.cpu with ime := v, imePending := none }, seq := .uExec })
    ∧ (s.cpu.imePending = none → exec .uIme s = .next { s with seq := .uExec })

/-- 41 R139, 44 R236, 30 R103: `U_EXEC` hands the latched descriptor back unchanged; only CPU state and the bytes the
instruction stores to change. -/
def Obligations.ExecuteHandsBackTheDescriptor : Prop :=
  ∀ s : State, ∃ t answer, exec .uExec s = .next t ∧ answer = portExecute s.params s.ir s.cpu s.ram
    ∧ t = { s with ram := t.ram, cpu := answer.cpu, seq := .uDma }
    ∧ t.ram = memWriteAll s.ram answer.writes
    ∧ ∀ a, notStored answer.writes a → readByte t a = readByte s a

/-- 41 R140, 44 R233: `U_DMA` makes the engine's stores, all of them in this one micro-operation, and adds nothing to any
counter. -/
def Obligations.DmaCopiesWithinTheStep : Prop :=
  ∀ s : State, ∃ t writes, exec .uDma s = .next t ∧ writes = portDma s.params s.ram
    ∧ t = { s with ram := t.ram, seq := .uRetire }
    ∧ t.ram = memWriteAll s.ram writes
    ∧ ∀ a, notStored writes a → readByte t a = readByte s a

/-- 41 R141, 43 R194: `U_RETIRE` counts the step and goes to `M_EVAL` inside a frame and to IDLE outside one. -/
def Obligations.RetireCountsTheStep : Prop :=
  ∀ s : State, exec .uRetire s = .next
    { s with stepsExecuted := s.stepsExecuted + 1, seq := if s.inFrame = true then .mEval else .idle }

/-- 41 R145: no micro-operation of a step writes a mode, `phase`, `line`, `in_frame` or `flags`. -/
def Obligations.StepLeavesModesAndLineAlone : Prop :=
  ∀ (i : Instr) (s t : State),
    i ∈ [Instr.uIrq, .uClrx, .uFetch, .uSstep, .uAcc, .uTimer, .uInput, .uIme, .uExec, .uDma, .uRetire] →
    exec i s = .next t →
    t.currentMode = s.currentMode ∧ t.previousMode = s.previousMode ∧ t.phase = s.phase ∧ t.line = s.line
      ∧ t.inFrame = s.inFrame ∧ t.flags = s.flags

/-- 41 R142: with a quiet host and no single-step pause, a step at `U_IRQ` performs the eleven micro-operations in exactly
this order: the positions after each of the first ten steps, and the return after the eleventh. -/
def Obligations.ElevenMicroOperationsInOrder : Prop :=
  ∀ s : State, s.params.wellFormed = true → s.host = [] → s.seq = .uIrq → s.paused = false → s.flags.getLsbD 0 = false →
    (∀ n u, (n, u) ∈ [(1, Uop.uClrx), (2, .uFetch), (3, .uSstep), (4, .uAcc), (5, .uTimer), (6, .uInput), (7, .uIme),
        (8, .uExec), (9, .uDma), (10, .uRetire)] → ∃ t, Host.Core.run core n s = .next t ∧ t.seq = u)
    ∧ ∃ t, Host.Core.run core 11 s = .next t ∧ t.stepsExecuted = s.stepsExecuted + 1
        ∧ t.seq = if s.inFrame = true then .mEval else .idle

/-! ## The mode machine -/

/-- 42 R161: the mode derived from `phase` and the scanline counter. -/
def Obligations.ModeIsDerivedFromPhaseAndCounter : Prop :=
  ∀ (p : Params) (c : Nat),
    deriveMode p .tail c = .vBlank
    ∧ (c < p.oamEnd → deriveMode p .visible c = .oamScan)
    ∧ (p.oamEnd ≤ c → c < p.hblankStart → deriveMode p .visible c = .pixelTransfer)
    ∧ (p.oamEnd ≤ c → p.hblankStart ≤ c → deriveMode p .visible c = .hBlank)

/-- 42 R162, R163, R170: an observation makes both modes the derived one, replaces bits 1:0 of STAT by its code and keeps
bits 7:2, and changes no byte but STAT and IF and no other state. -/
def Obligations.ObservationWritesTheModeField : Prop :=
  ∀ s : State, s.params.wellFormed = true → ∃ t m, exec .mEval s = .next t
    ∧ m = deriveMode s.params s.phase s.scanlineCycleCounter
    ∧ t = { s with ram := t.ram, currentMode := m, previousMode := m, seq := .lTest }
    ∧ (readByte t s.params.aSTAT).extractLsb' 0 2 = modeCode s.params m
    ∧ (readByte t s.params.aSTAT).extractLsb' 2 6 = (readByte s s.params.aSTAT).extractLsb' 2 6
    ∧ ∀ a, a ≠ s.params.aSTAT → a ≠ s.params.aIF → readByte t a = readByte s a

/-- 42 R169, R164 to R168: an observation sets `IF_STAT` exactly if the mode changed and one of the four conditions holds
on the bytes of STAT, LY and LYC; no other bit of IF changes and none is cleared. -/
def Obligations.StatRequestIsRaisedOnQualifyingEdges : Prop :=
  ∀ s : State, s.params.wellFormed = true → ∃ t m stat, exec .mEval s = .next t
    ∧ m = deriveMode s.params s.phase s.scanlineCycleCounter ∧ stat = readByte s s.params.aSTAT
    ∧ ∀ j : Fin 8, ((readByte t s.params.aIF).getLsbD j.val = true ↔
        (readByte s s.params.aIF).getLsbD j.val = true
        ∨ j = s.params.ifStat ∧ m ≠ s.previousMode
          ∧ (stat.getLsbD s.params.statSelLyc.val = true
                ∧ readByte s s.params.aLY = readByte s s.params.aLYC ∧ s.previousMode = .hBlank
              ∨ stat.getLsbD s.params.statSelHblank.val = true ∧ m = .hBlank
              ∨ stat.getLsbD s.params.statSelVblank.val = true ∧ m = .vBlank
              ∨ stat.getLsbD s.params.statSelPt.val = true ∧ m = .pixelTransfer))

/-- 42 R177: the truth table of the raise, row by row, the select bits and the comparison given. -/
def Obligations.RaiseTruthTable : Prop :=
  ∀ (p : Params) (stat ly lyc : Byte) (prev m : Mode),
    statRaise p stat ly lyc prev m =
      (match prev, m with
        | .hBlank, .pixelTransfer => stat.getLsbD p.statSelPt.val || (stat.getLsbD p.statSelLyc.val && ly == lyc)
        | .hBlank, .oamScan => stat.getLsbD p.statSelLyc.val && ly == lyc
        | .hBlank, .vBlank => stat.getLsbD p.statSelVblank.val || (stat.getLsbD p.statSelLyc.val && ly == lyc)
        | .pixelTransfer, .hBlank => stat.getLsbD p.statSelHblank.val
        | .oamScan, .pixelTransfer => stat.getLsbD p.statSelPt.val
        | .oamScan, .hBlank => stat.getLsbD p.statSelHblank.val
        | .vBlank, .pixelTransfer => stat.getLsbD p.statSelPt.val
        | .vBlank, .hBlank => stat.getLsbD p.statSelHblank.val
        | .pixelTransfer, .vBlank => stat.getLsbD p.statSelVblank.val
        | .oamScan, .vBlank => stat.getLsbD p.statSelVblank.val
        | .vBlank, .oamScan => false
        | .pixelTransfer, .oamScan => false
        | .hBlank, .hBlank => false
        | .pixelTransfer, .pixelTransfer => false
        | .oamScan, .oamScan => false
        | .vBlank, .vBlank => false)

/-- 42 R171, R164, R170: once an observation has found a mode, a later one that finds the same mode, whatever the program and
the peripherals did to the space in between, leaves IF as it is. -/
def Obligations.RepeatedObservationRaisesNothing : Prop :=
  ∀ s t s' t' : State, exec .mEval s = .next t → s'.previousMode = t.previousMode → s'.params = s.params →
    s.params.wellFormed = true →
    deriveMode s'.params s'.phase s'.scanlineCycleCounter = deriveMode s.params s.phase s.scanlineCycleCounter →
    exec .mEval s' = .next t' → readByte t' s.params.aIF = readByte s' s.params.aIF

/-- 42 R172: with the two-phase policy, `OAM_END` = 0, no observation ever finds OAMScan. -/
def Obligations.TwoPhasePolicyNeverScansOam : Prop :=
  ∀ (p : Params) (phase : Phase) (c : Nat), p.oamEnd = 0 → deriveMode p phase c ≠ .oamScan

/-! ## The frame -/

/-- 43 R191: `F_START` writes LY with 0, whatever it held, and starts the frame; modes, STAT and IF are untouched. -/
def Obligations.FrameStartZeroesTheScanline : Prop :=
  ∀ s : State, ∃ t, exec .fStart s = .next t
    ∧ t = { s with ram := t.ram, line := 0, phase := .visible, inFrame := true, seq := .lEntry }
    ∧ readByte t s.params.aLY = 0 ∧ ∀ a, a ≠ s.params.aLY → readByte t a = readByte s a

/-- 43 R192: `L_ENTRY` drops whatever the scanline counter held and changes nothing else. -/
def Obligations.LineEntryResetsTheCounter : Prop :=
  ∀ s : State, exec .lEntry s = .next { s with scanlineCycleCounter := 0, seq := .lTest }

/-- 43 R193: `L_TEST`: one more step below the budget; at or above it the line is left, by `phase`. -/
def Obligations.LineTestComparesWithTheBudget : Prop :=
  ∀ s : State,
    (s.scanlineCycleCounter < s.params.scanlineCycleBudget → exec .lTest s = .next { s with seq := .uIrq })
    ∧ (s.params.scanlineCycleBudget ≤ s.scanlineCycleCounter → s.phase = .visible →
        exec .lTest s = .next { s with seq := .lCommit })
    ∧ (s.params.scanlineCycleBudget ≤ s.scanlineCycleCounter → s.phase = .tail →
        exec .lTest s = .next { s with seq := .lInc })

/-- 43 R195, 44 R234: `L_COMMIT` calls the PPU; only its private buffer and the bytes it stores to change. -/
def Obligations.CommitGivesTheLineToThePpu : Prop :=
  ∀ s : State, ∃ t answer, exec .lCommit s = .next t ∧ answer = portCommit s.params s.ppu s.ram
    ∧ t = { s with ram := t.ram, ppu := answer.own, seq := .lInc }
    ∧ t.ram = memWriteAll s.ram answer.writes
    ∧ ∀ a, notStored answer.writes a → readByte t a = readByte s a

/-- 43 R196: `L_INC` replaces LY by `(LY + 1) mod 256`, the byte read at that moment. -/
def Obligations.LineIncrementWrapsAt256 : Prop :=
  ∀ s : State, ∃ t, exec .lInc s = .next t
    ∧ t = { s with ram := t.ram, seq := t.seq }
    ∧ (readByte t s.params.aLY).toNat = ((readByte s s.params.aLY).toNat + 1) % 256
    ∧ (∀ a, a ≠ s.params.aLY → readByte t a = readByte s a)
    ∧ (s.phase = .visible → t.seq = .lPause) ∧ (s.phase = .tail → t.seq = .lNext)

/-- 43 R197, 45 R253: `L_PAUSE`: with `line_by_line` clear it falls through; with it set it holds on arrival; held, nothing
changes. No dump is made. -/
def Obligations.LinePause : Prop :=
  ∀ s : State, s.params.hasDebug = true →
    (s.paused = false → s.flags.getLsbD 1 = false → exec .lPause s = .next { s with seq := .lNext })
    ∧ (s.paused = false → s.flags.getLsbD 1 = true → exec .lPause s = .next { s with paused := true, seq := .lPause })
    ∧ (s.paused = true → exec .lPause s = .next s)

/-- 43 R198: `L_NEXT` raises `line` and goes to `V_ENTRY` at the 144th visible line, to `F_PAUSE` at the end of the tail, and
to `L_ENTRY` otherwise, by the `line` it has raised. Where `line` is 255 the spec states no sum, and it holds a free value
(log entry 14). -/
def Obligations.NextLineCountsTheFrame : Prop :=
  ∀ s : State, ∃ t, exec .lNext s = .next t
    ∧ t = { s with line := t.line, seq := t.seq, freeCount := t.freeCount }
    ∧ (s.line ≠ 255 → t.line.toNat = s.line.toNat + 1 ∧ t.freeCount = s.freeCount)
    ∧ (s.line = 255 → t.line = Config.freeLine s.freeCount ∧ t.freeCount = s.freeCount + 1)
    ∧ (s.phase = .visible → t.line.toNat = 144 → t.seq = .vEntry)
    ∧ (s.phase = .tail → t.line.toNat = 144 + s.params.vblankLines → t.seq = .fPause)
    ∧ (s.phase = .visible → t.line.toNat ≠ 144 → t.seq = .lEntry)
    ∧ (s.phase = .tail → t.line.toNat ≠ 144 + s.params.vblankLines → t.seq = .lEntry)

/-- 43 R199: `V_ENTRY` sets `IF_VBLANK`, unconditionally, keeps the other bits of IF, and makes no observation: the modes and
STAT are unchanged. -/
def Obligations.VblankEntryRaisesTheRequest : Prop :=
  ∀ s : State, ∃ t, exec .vEntry s = .next t
    ∧ t = { s with ram := t.ram, phase := .tail, seq := .lEntry }
    ∧ (∀ j : Fin 8, (readByte t s.params.aIF).getLsbD j.val
        = ((readByte s s.params.aIF).getLsbD j.val || decide (j = s.params.ifVblank)))
    ∧ ∀ a, a ≠ s.params.aIF → readByte t a = readByte s a

/-- 43 R201, 45 R253: `F_PAUSE`: with `screen_by_screen` clear it falls through; with it set it holds on arrival; held,
nothing changes. No dump is made. -/
def Obligations.FramePause : Prop :=
  ∀ s : State, s.params.hasDebug = true →
    (s.paused = false → s.flags.getLsbD 2 = false → exec .fPause s = .next { s with seq := .fEnd })
    ∧ (s.paused = false → s.flags.getLsbD 2 = true → exec .fPause s = .next { s with paused := true, seq := .fPause })
    ∧ (s.paused = true → exec .fPause s = .next s)

/-- 43 R202: `F_END` clears `in_frame`, goes idle and leaves everything else as it is. -/
def Obligations.FrameEndGoesIdle : Prop :=
  ∀ s : State, exec .fEnd s = .next { s with inFrame := false, seq := .idle }

/-- 43 R204: of the micro-operations that make the block's own stores (20 R63), `V_ENTRY` alone sets `IF_VBLANK`, and none
clears any bit of IF. -/
def Obligations.OnlyVblankEntrySetsTheVblankBit : Prop :=
  ∀ (i : Instr) (s t : State), s.params.wellFormed = true → i ∈ [Instr.mEval, .fStart, .lInc, .vEntry] →
    exec i s = .next t →
    (i ≠ .vEntry → (readByte t s.params.aIF).getLsbD s.params.ifVblank.val
        = (readByte s s.params.aIF).getLsbD s.params.ifVblank.val)
    ∧ ∀ j : Fin 8, (readByte s s.params.aIF).getLsbD j.val = true → (readByte t s.params.aIF).getLsbD j.val = true

/-! ## The whole machine -/

/-- 20 R63: the complete list of the block's own accesses: a micro-operation other than these four, and other than those
that call a collaborator which may store, changes no byte. -/
def Obligations.NoOtherMicroOperationStores : Prop :=
  ∀ (i : Instr) (s t : State),
    i ∉ [Instr.fStart, .lInc, .vEntry, .mEval, .uIrq, .uTimer, .uInput, .uExec, .uDma, .lCommit] →
    exec i s = .next t → t.ram = s.ram

/-- 10 R21, R22: without a reset, `steps_executed` grows by one at `U_RETIRE` and at nothing else, `total_cycles` by the cost
at `U_ACC` and at nothing else. -/
def Obligations.CountersOnlyGrowWhereTheyMust : Prop :=
  ∀ (i : Instr) (s t : State), exec i s = .next t →
    t.stepsExecuted = s.stepsExecuted + (if i = .uRetire then 1 else 0)
    ∧ t.totalCycles = s.totalCycles + (if i = .uAcc then t.cost else 0)

/-- 00 R4, 10 R46: no step changes the parameters of the instance (the field `params` is the model's form, log entry 1), and
only an instance of the block steps (that other parameters are refused is the model's reading of 93 U13, log entry 13). -/
def Obligations.StepKeepsTheParameters : Prop :=
  ∀ s t : State, step s = .next t → t.params = s.params ∧ s.params.wellFormed = true

/-- The invariant of the machine (10 R23, R25, R28, R30, 43 R203; the canonical memory): every step keeps it, the host's
moves and resets included. -/
def Obligations.StepKeepsTheInvariant : Prop :=
  ∀ s t : State, Legal s → step s = .next t → Legal t

/-- 10 R47: the state right after reset, with the values the spec gives, and that it meets the invariant. The launch values of
the space, the collaborators and the latches (log entries 7, 8, 9) do not enter. -/
def Obligations.ResetStateIsLegal : Prop :=
  Legal State.reset ∧ State.reset.stepsExecuted = 0 ∧ State.reset.totalCycles = 0
    ∧ State.reset.scanlineCycleCounter = 0 ∧ State.reset.currentMode = .vBlank ∧ State.reset.previousMode = .vBlank
    ∧ State.reset.flags = 0 ∧ State.reset.seq = .idle ∧ State.reset.phase = .visible ∧ State.reset.line = 0
    ∧ State.reset.inFrame = false ∧ State.reset.paused = false

/-- 45 R257, 43 R208: the debug facilities do not perturb the machine. With flags, pauses, dumps and the host's stream taken
out, a step is the step of the machine without them under `debugFreeEvents`, the host's own event less the debug commands;
or no move at all, where the block is held and the host does nothing to it. So SETFLAGS, CONT and NOP, untaken words, the
arrival at a pause and the hold itself leave the machine as it is or as its micro-operation leaves it. The failure of the
continue channel, which is fatal, is left out (that CONT completes the held micro-operation in its step: log entry 12). -/
def Obligations.DebugDoesNotPerturbTheMachine : Prop :=
  ∀ s t : State, Legal s → ¬ continueFails s → step s = .next t →
    (standsStill s → withoutDebug t = withoutDebug s)
    ∧ (¬ standsStill s → step { withoutDebug s with host := debugFreeEvents s } = .next (withoutDebug t))

/-- 70 R327: with every instruction costing at least one cycle, no pause flag and a quiet host, a frame ends, in at most
`frameRank` micro-operations and with at most (VISIBLE_LINES + VBLANK_LINES) x SCANLINE_CYCLE_BUDGET steps, where the lines
of a frame can be counted in the 8 bits of `line` (43 R198; beyond them `line` takes a free value, log entry 14). -/
def Obligations.FrameEndsWithinItsBudget : Prop :=
  ∀ s : State, Legal s → s.params.wellFormed = true → lineFits s → CostsPositive s.params → s.seq = .fStart → s.host = [] →
    s.paused = false → s.flags = 0 →
    ∃ n t, n ≤ frameRank s ∧ Host.Core.run core n s = .next t ∧ t.seq = .idle
      ∧ t.stepsExecuted ≤ s.stepsExecuted + (144 + s.params.vblankLines) * s.params.scanlineCycleBudget
end

