-- ==== Sys2Proof/Laws/Memory.lean ====
section
/-!
SUPPORT. The laws of the shared address space (20 R60, R68): a read after a store to the same place gives the byte stored,
a store leaves every other place alone, and every operation keeps the canonical form.
-/

namespace Sys2Proof.Machine

theorem memRead_filter_other (m : Memory) (a b : Addr) (h : b ≠ a) :
    memRead (m.filter (fun c => c.1 != a.toNat)) b = memRead m b := by
  have hn : b.toNat ≠ a.toNat := fun e => h (BitVec.eq_of_toNat_eq e)
  induction m with
  | nil => rfl
  | cons c rest ih =>
    by_cases hc : c.1 = a.toNat
    · have hb : c.1 ≠ b.toNat := fun e => hn (e.symm.trans hc)
      simp only [List.filter_cons, hc, bne_self_eq_false, Bool.false_eq_true, if_false, memRead]
      rw [ih, if_neg (fun e => hn e.symm)]
    · simp only [List.filter_cons, bne_iff_ne, ne_eq, hc, not_false_eq_true, if_true, memRead, ih]

theorem memRead_filter_same (m : Memory) (a : Addr) :
    memRead (m.filter (fun c => c.1 != a.toNat)) a = unlistedByte := by
  induction m with
  | nil => rfl
  | cons c rest ih =>
    by_cases hc : c.1 = a.toNat
    · simpa [List.filter_cons, hc] using ih
    · simp [hc, memRead, ih]

theorem memRead_insertCell_same (m : Memory) (a : Addr) (v : Byte) (h : ∀ c ∈ m, c.1 ≠ a.toNat) :
    memRead (insertCell (a.toNat, v) m) a = v := by
  induction m with
  | nil => simp [insertCell, memRead]
  | cons d rest ih =>
    have hd : d.1 ≠ a.toNat := h d (List.mem_cons_self ..)
    by_cases hlt : a.toNat < d.1
    · simp [insertCell, hlt, memRead]
    · simp [insertCell, hlt, memRead, hd, ih (fun c hc => h c (List.mem_cons_of_mem _ hc))]

theorem memRead_insertCell_other (m : Memory) (a b : Addr) (v : Byte) (h : b ≠ a) :
    memRead (insertCell (a.toNat, v) m) b = memRead m b := by
  have hn : ¬ a.toNat = b.toNat := fun e => h (BitVec.eq_of_toNat_eq e.symm)
  induction m with
  | nil => simp [insertCell, memRead, hn]
  | cons d rest ih =>
    by_cases hlt : a.toNat < d.1
    · simp [insertCell, hlt, memRead, hn]
    · simp [insertCell, hlt, memRead, ih]

/-- A read returns the last value written (20 R60). -/
@[simp] theorem memRead_memWrite_same (m : Memory) (a : Addr) (v : Byte) : memRead (memWrite m a v) a = v := by
  by_cases hv : v = unlistedByte
  · simp [memWrite, hv, memRead_filter_same]
  · simp only [memWrite, hv, if_false]
    exact memRead_insertCell_same _ _ _ (fun c hc => by simpa using (List.mem_filter.mp hc).2)

/-- A store leaves every other place alone. -/
theorem memRead_memWrite_other (m : Memory) (a b : Addr) (v : Byte) (h : b ≠ a) :
    memRead (memWrite m a v) b = memRead m b := by
  by_cases hv : v = unlistedByte
  · simp [memWrite, hv, memRead_filter_other m a b h]
  · simp [memWrite, hv, memRead_insertCell_other _ a b v h, memRead_filter_other m a b h]

@[simp] theorem memWriteAll_nil (m : Memory) : memWriteAll m [] = m := rfl

@[simp] theorem memWriteAll_cons (m : Memory) (w : Write) (ws : List Write) :
    memWriteAll m (w :: ws) = memWriteAll (memWrite m w.addr w.byte) ws := rfl

/-- Stores leave every place they do not go to alone. -/
theorem memRead_memWriteAll_other (m : Memory) (ws : List Write) (a : Addr) (h : notStored ws a) :
    memRead (memWriteAll m ws) a = memRead m a := by
  induction ws generalizing m with
  | nil => rfl
  | cons w rest ih =>
    rw [memWriteAll_cons, ih _ (fun x hx => h x (List.mem_cons_of_mem _ hx)),
      memRead_memWrite_other _ _ _ _ (h w (List.mem_cons_self ..)).symm]

theorem insertCell_mem (c d : Host.Cell) (m : Memory) : d ∈ insertCell c m ↔ d = c ∨ d ∈ m := by
  induction m with
  | nil => simp [insertCell]
  | cons e rest ih =>
    by_cases h : c.1 < e.1
    · simp [insertCell, h]
    · simp only [insertCell, h, if_false, List.mem_cons, ih]
      exact or_left_comm

theorem insertCell_sorted (c : Host.Cell) (m : Memory) (hs : m.Pairwise (fun x y => x.1 < y.1))
    (hc : ∀ d ∈ m, d.1 ≠ c.1) : (insertCell c m).Pairwise (fun x y => x.1 < y.1) := by
  induction m with
  | nil => simp [insertCell]
  | cons e rest ih =>
    have ⟨he, hr⟩ := List.pairwise_cons.mp hs
    by_cases h : c.1 < e.1
    · simp only [insertCell, h, if_true]
      refine List.pairwise_cons.mpr ⟨fun d hd => ?_, hs⟩
      rcases List.mem_cons.mp hd with rfl | hd
      · exact h
      · exact Nat.lt_trans h (he d hd)
    · simp only [insertCell, h, if_false]
      refine List.pairwise_cons.mpr ⟨fun d hd => ?_, ih hr (fun d hd => hc d (List.mem_cons_of_mem _ hd))⟩
      rcases (insertCell_mem c d rest).mp hd with rfl | hd
      · have := hc e (List.mem_cons_self ..)
        omega
      · exact he d hd

/-- `MemWrite` keeps the canonical form. -/
theorem memWrite_wf (m : Memory) (a : Addr) (v : Byte) (h : Memory.wf m) : Memory.wf (memWrite m a v) := by
  have hsorted := h.1.filter (fun c => c.1 != a.toNat)
  have hcells : ∀ c ∈ m.filter (fun c => c.1 != a.toNat), c.1 < 65536 ∧ c.2 ≠ unlistedByte :=
    fun c hc => h.2 c (List.mem_filter.mp hc).1
  by_cases hv : v = unlistedByte
  · simp only [memWrite, hv, if_true]
    exact ⟨hsorted, hcells⟩
  · simp only [memWrite, hv, if_false]
    refine ⟨insertCell_sorted _ _ hsorted (fun d hd => by simpa using (List.mem_filter.mp hd).2), fun c hc => ?_⟩
    rcases (insertCell_mem _ c _).mp hc with rfl | hc
    · exact ⟨a.isLt, hv⟩
    · exact hcells c hc

/-- A run of stores keeps the canonical form. -/
theorem memWriteAll_wf (m : Memory) (ws : List Write) (h : Memory.wf m) : Memory.wf (memWriteAll m ws) := by
  induction ws generalizing m with
  | nil => exact h
  | cons w rest ih => exact ih _ (memWrite_wf m w.addr w.byte h)

/-- The space at reset is canonical. -/
theorem reset_memory_wf : Memory.wf State.reset.ram := by decide

end Sys2Proof.Machine
end

