-- ==== Sys2Proof/Laws/State.lean ====
section
/-!
SUPPORT. One lemma per field for each named update of the state, so that no proof unfolds a record update.
-/

namespace Sys2Proof.Machine

/-! `seq <- u` writes `seq` alone. -/

@[simp] theorem goto_params (u : Uop) (s : State) : (goto u s).params = s.params := rfl
@[simp] theorem goto_stepsExecuted (u : Uop) (s : State) : (goto u s).stepsExecuted = s.stepsExecuted := rfl
@[simp] theorem goto_totalCycles (u : Uop) (s : State) : (goto u s).totalCycles = s.totalCycles := rfl
@[simp] theorem goto_scanlineCycleCounter (u : Uop) (s : State) : (goto u s).scanlineCycleCounter = s.scanlineCycleCounter := rfl
@[simp] theorem goto_currentMode (u : Uop) (s : State) : (goto u s).currentMode = s.currentMode := rfl
@[simp] theorem goto_previousMode (u : Uop) (s : State) : (goto u s).previousMode = s.previousMode := rfl
@[simp] theorem goto_flags (u : Uop) (s : State) : (goto u s).flags = s.flags := rfl
@[simp] theorem goto_seq (u : Uop) (s : State) : (goto u s).seq = u := rfl
@[simp] theorem goto_phase (u : Uop) (s : State) : (goto u s).phase = s.phase := rfl
@[simp] theorem goto_line (u : Uop) (s : State) : (goto u s).line = s.line := rfl
@[simp] theorem goto_inFrame (u : Uop) (s : State) : (goto u s).inFrame = s.inFrame := rfl
@[simp] theorem goto_ir (u : Uop) (s : State) : (goto u s).ir = s.ir := rfl
@[simp] theorem goto_base (u : Uop) (s : State) : (goto u s).base = s.base := rfl
@[simp] theorem goto_cost (u : Uop) (s : State) : (goto u s).cost = s.cost := rfl
@[simp] theorem goto_paused (u : Uop) (s : State) : (goto u s).paused = s.paused := rfl
@[simp] theorem goto_ram (u : Uop) (s : State) : (goto u s).ram = s.ram := rfl
@[simp] theorem goto_cpu (u : Uop) (s : State) : (goto u s).cpu = s.cpu := rfl
@[simp] theorem goto_timer (u : Uop) (s : State) : (goto u s).timer = s.timer := rfl
@[simp] theorem goto_input (u : Uop) (s : State) : (goto u s).input = s.input := rfl
@[simp] theorem goto_ppu (u : Uop) (s : State) : (goto u s).ppu = s.ppu := rfl
@[simp] theorem goto_controller (u : Uop) (s : State) : (goto u s).controller = s.controller := rfl
@[simp] theorem goto_host (u : Uop) (s : State) : (goto u s).host = s.host := rfl
@[simp] theorem goto_dumps (u : Uop) (s : State) : (goto u s).dumps = s.dumps := rfl
@[simp] theorem goto_freeCount (u : Uop) (s : State) : (goto u s).freeCount = s.freeCount := rfl

/-! Stores change the shared address space alone. -/

@[simp] theorem storeAll_params (ws : List Write) (s : State) : (storeAll ws s).params = s.params := rfl
@[simp] theorem storeAll_stepsExecuted (ws : List Write) (s : State) : (storeAll ws s).stepsExecuted = s.stepsExecuted := rfl
@[simp] theorem storeAll_totalCycles (ws : List Write) (s : State) : (storeAll ws s).totalCycles = s.totalCycles := rfl
@[simp] theorem storeAll_scanlineCycleCounter (ws : List Write) (s : State) : (storeAll ws s).scanlineCycleCounter = s.scanlineCycleCounter := rfl
@[simp] theorem storeAll_currentMode (ws : List Write) (s : State) : (storeAll ws s).currentMode = s.currentMode := rfl
@[simp] theorem storeAll_previousMode (ws : List Write) (s : State) : (storeAll ws s).previousMode = s.previousMode := rfl
@[simp] theorem storeAll_flags (ws : List Write) (s : State) : (storeAll ws s).flags = s.flags := rfl
@[simp] theorem storeAll_seq (ws : List Write) (s : State) : (storeAll ws s).seq = s.seq := rfl
@[simp] theorem storeAll_phase (ws : List Write) (s : State) : (storeAll ws s).phase = s.phase := rfl
@[simp] theorem storeAll_line (ws : List Write) (s : State) : (storeAll ws s).line = s.line := rfl
@[simp] theorem storeAll_inFrame (ws : List Write) (s : State) : (storeAll ws s).inFrame = s.inFrame := rfl
@[simp] theorem storeAll_ir (ws : List Write) (s : State) : (storeAll ws s).ir = s.ir := rfl
@[simp] theorem storeAll_base (ws : List Write) (s : State) : (storeAll ws s).base = s.base := rfl
@[simp] theorem storeAll_cost (ws : List Write) (s : State) : (storeAll ws s).cost = s.cost := rfl
@[simp] theorem storeAll_paused (ws : List Write) (s : State) : (storeAll ws s).paused = s.paused := rfl
@[simp] theorem storeAll_ram (ws : List Write) (s : State) : (storeAll ws s).ram = memWriteAll s.ram ws := rfl
@[simp] theorem storeAll_cpu (ws : List Write) (s : State) : (storeAll ws s).cpu = s.cpu := rfl
@[simp] theorem storeAll_timer (ws : List Write) (s : State) : (storeAll ws s).timer = s.timer := rfl
@[simp] theorem storeAll_input (ws : List Write) (s : State) : (storeAll ws s).input = s.input := rfl
@[simp] theorem storeAll_ppu (ws : List Write) (s : State) : (storeAll ws s).ppu = s.ppu := rfl
@[simp] theorem storeAll_controller (ws : List Write) (s : State) : (storeAll ws s).controller = s.controller := rfl
@[simp] theorem storeAll_host (ws : List Write) (s : State) : (storeAll ws s).host = s.host := rfl
@[simp] theorem storeAll_dumps (ws : List Write) (s : State) : (storeAll ws s).dumps = s.dumps := rfl
@[simp] theorem storeAll_freeCount (ws : List Write) (s : State) : (storeAll ws s).freeCount = s.freeCount := rfl

/-! `applyIme` writes the master enable and its pending change alone (44 R238). -/

@[simp] theorem applyIme_pc (c : Cpu) : (applyIme c).pc = c.pc := by
  cases h : c.imePending <;> simp [applyIme, h]

@[simp] theorem applyIme_sp (c : Cpu) : (applyIme c).sp = c.sp := by
  cases h : c.imePending <;> simp [applyIme, h]

@[simp] theorem applyIme_extra (c : Cpu) : (applyIme c).extra = c.extra := by
  cases h : c.imePending <;> simp [applyIme, h]

@[simp] theorem applyIme_own (c : Cpu) : (applyIme c).own = c.own := by
  cases h : c.imePending <;> simp [applyIme, h]

@[simp] theorem applyIme_imePending (c : Cpu) : (applyIme c).imePending = none := by
  cases h : c.imePending <;> simp [applyIme, h]

end Sys2Proof.Machine
end

