-- ==== Sys2Proof/Laws/Ops.lean ====
section
/-!
SUPPORT. One lemma for each shared operation that says everything it can do, and the small facts of the bit helpers.
-/

namespace Sys2Proof.Machine

@[simp] theorem readByte_storeAll (ws : List Write) (s : State) (a : Addr) :
    readByte (storeAll ws s) a = memRead (memWriteAll s.ram ws) a := rfl

/-- Stores leave every byte they do not go to alone. -/
theorem readByte_storeAll_other (ws : List Write) (s : State) (a : Addr) (h : notStored ws a) :
    readByte (storeAll ws s) a = readByte s a := memRead_memWriteAll_other s.ram ws a h

/-- The bit of `1 << i` (00 R6). -/
theorem bitMask_getLsbD : ∀ i j : Fin 8, (bitMask i).getLsbD j.val = decide (j = i) := by decide

/-- `SetBit` sets bit `i` and leaves the other seven as read (20 R64). -/
theorem withBit_getLsbD (v : Byte) (i j : Fin 8) :
    (withBit v i).getLsbD j.val = (v.getLsbD j.val || decide (j = i)) := by
  simp only [withBit, BitVec.getLsbD_or, bitMask_getLsbD]

/-- A dispatch clears bit `i` and leaves the other seven as read (60 R277). -/
theorem withoutBit_getLsbD (v : Byte) (i j : Fin 8) :
    (withoutBit v i).getLsbD j.val = (v.getLsbD j.val && decide (j ≠ i)) := by
  have hm := bitMask_getLsbD i j
  have hj := j.isLt
  simp only [withoutBit, BitVec.getLsbD_and, BitVec.getLsbD_not, hm]
  by_cases h : j = i <;> simp [h]

/-- `cpu.dispatch` changes nothing where no source qualifies (60 R276). -/
theorem takeInterrupt_none (s : State) (h : dispatchSource s = none) : takeInterrupt s = s := by
  simp [takeInterrupt, h]

/-- `cpu.dispatch` of source `i` (60 R277). -/
theorem takeInterrupt_some (s : State) (i : Fin 5) (h : dispatchSource s = some i) :
    takeInterrupt s =
      { s with ram := memWriteAll s.ram (interruptWrites i s),
               cpu := { s.cpu with pc := vector i, sp := s.cpu.sp - 2, ime := false } } := by
  simp [takeInterrupt, h, storeAll]

/-- Whether or not a source qualifies, a dispatch makes `dispatchWrites` and changes the space and the CPU alone. -/
theorem takeInterrupt_frame (s : State) :
    takeInterrupt s = { s with ram := memWriteAll s.ram (dispatchWrites s), cpu := (takeInterrupt s).cpu } := by
  cases h : dispatchSource s with
  | none => simp [takeInterrupt_none s h, dispatchWrites, h]
  | some i => simp [takeInterrupt_some s i h, dispatchWrites, h]

/-- A dispatch leaves the pending master-enable change as it is (60 R281). -/
@[simp] theorem takeInterrupt_imePending (s : State) : (takeInterrupt s).cpu.imePending = s.cpu.imePending := by
  cases h : dispatchSource s with
  | none => simp [takeInterrupt_none s h]
  | some i => simp [takeInterrupt_some s i h]

/-- The least of the five low bits (60 R279). -/
theorem leastSource_eq_some : ∀ (v : Byte) (i : Fin 5), leastSource v = some i ↔
    v.getLsbD i.val = true ∧ ∀ j : Fin 5, j.val < i.val → v.getLsbD j.val = false := by
  decide

/-- No source where the five low bits are clear (60 R276). -/
theorem leastSource_eq_none : ∀ v : Byte, leastSource v = none ↔ v &&& 0x1F = 0 := by decide

/-- The three things a pause point can do (45 R253). -/
theorem pauseAt_cases (p next : Uop) (flag : Bool) (s : State) :
    (held s = true ∧ pauseAt p flag next s = s)
      ∨ (held s = false ∧ flag = true ∧ pauseAt p flag next s = { s with paused := true, seq := p })
      ∨ (held s = false ∧ flag = false ∧ pauseAt p flag next s = { s with seq := next }) := by
  cases hh : held s <;> cases flag <;> simp [pauseAt, hh, goto]

/-- A dump changes the record of dumps alone (45 R254). -/
theorem dumpOnArrival_frame (s : State) : dumpOnArrival s = { s with dumps := (dumpOnArrival s).dumps } := by
  unfold dumpOnArrival
  split <;> rfl

@[simp] theorem held_dumpOnArrival (s : State) : held (dumpOnArrival s) = held s := by
  rw [dumpOnArrival_frame]
  rfl

/-- A word of STEP or FRAME is not taken while paused, every other is (30 R93). -/
theorem takenWhilePaused_iff : ∀ w : Byte, takenWhilePaused (decodeCmd w) = true ↔ w ≠ 0x10 ∧ w ≠ 0x20 := by decide

end Sys2Proof.Machine
end

