-- ==== Sys2Proof/Laws/PerInstr.lean ====
section
/-!
SUPPORT. One family of statements made per instruction: the word the encoder gives an operation fits the width of its
format (30 R90, R91, R96).
-/

namespace Sys2Proof.Laws

/-- The encoded word fits its width, and the width is one of the two formats' (30 R90). -/
def EncodingFits.Statement (i : Instr) : Prop :=
  ((encode i).1 = 8 ∨ (encode i).1 = 5) ∧ (encode i).2 < 2 ^ (encode i).1

theorem EncodingFits.nop : EncodingFits.Statement .nop := by
  simp [EncodingFits.Statement, encode]

theorem EncodingFits.step : EncodingFits.Statement .step := by
  simp [EncodingFits.Statement, encode]

theorem EncodingFits.frame : EncodingFits.Statement .frame := by
  simp [EncodingFits.Statement, encode]

theorem EncodingFits.cont : EncodingFits.Statement .cont := by
  simp [EncodingFits.Statement, encode]

theorem EncodingFits.setflags (arg : BitVec 4) : EncodingFits.Statement (.setflags arg) := by
  have h := arg.isLt
  refine ⟨.inl rfl, ?_⟩
  show 0x40 + arg.toNat < 256
  omega

theorem EncodingFits.idle : EncodingFits.Statement .idle := by
  simp [EncodingFits.Statement, encode]

theorem EncodingFits.uIrq : EncodingFits.Statement .uIrq := by
  simp [EncodingFits.Statement, encode]

theorem EncodingFits.uClrx : EncodingFits.Statement .uClrx := by
  simp [EncodingFits.Statement, encode]

theorem EncodingFits.uFetch : EncodingFits.Statement .uFetch := by
  simp [EncodingFits.Statement, encode]

theorem EncodingFits.uSstep : EncodingFits.Statement .uSstep := by
  simp [EncodingFits.Statement, encode]

theorem EncodingFits.uAcc : EncodingFits.Statement .uAcc := by
  simp [EncodingFits.Statement, encode]

theorem EncodingFits.uTimer : EncodingFits.Statement .uTimer := by
  simp [EncodingFits.Statement, encode]

theorem EncodingFits.uInput : EncodingFits.Statement .uInput := by
  simp [EncodingFits.Statement, encode]

theorem EncodingFits.uIme : EncodingFits.Statement .uIme := by
  simp [EncodingFits.Statement, encode]

theorem EncodingFits.uExec : EncodingFits.Statement .uExec := by
  simp [EncodingFits.Statement, encode]

theorem EncodingFits.uDma : EncodingFits.Statement .uDma := by
  simp [EncodingFits.Statement, encode]

theorem EncodingFits.uRetire : EncodingFits.Statement .uRetire := by
  simp [EncodingFits.Statement, encode]

theorem EncodingFits.mEval : EncodingFits.Statement .mEval := by
  simp [EncodingFits.Statement, encode]

theorem EncodingFits.fStart : EncodingFits.Statement .fStart := by
  simp [EncodingFits.Statement, encode]

theorem EncodingFits.lEntry : EncodingFits.Statement .lEntry := by
  simp [EncodingFits.Statement, encode]

theorem EncodingFits.lTest : EncodingFits.Statement .lTest := by
  simp [EncodingFits.Statement, encode]

theorem EncodingFits.lCommit : EncodingFits.Statement .lCommit := by
  simp [EncodingFits.Statement, encode]

theorem EncodingFits.lInc : EncodingFits.Statement .lInc := by
  simp [EncodingFits.Statement, encode]

theorem EncodingFits.lPause : EncodingFits.Statement .lPause := by
  simp [EncodingFits.Statement, encode]

theorem EncodingFits.lNext : EncodingFits.Statement .lNext := by
  simp [EncodingFits.Statement, encode]

theorem EncodingFits.vEntry : EncodingFits.Statement .vEntry := by
  simp [EncodingFits.Statement, encode]

theorem EncodingFits.fPause : EncodingFits.Statement .fPause := by
  simp [EncodingFits.Statement, encode]

theorem EncodingFits.fEnd : EncodingFits.Statement .fEnd := by
  simp [EncodingFits.Statement, encode]

theorem EncodingFits.fatal : EncodingFits.Statement .fatal := by
  simp [EncodingFits.Statement, encode]

end Sys2Proof.Laws
end

