-- ==== Sys2Proof/Laws/Step.lean ====
section
/-!
SUPPORT. What one operation and one step can do: every operation answers a next state, and the inversion of `step`.
-/

namespace Sys2Proof.Machine

/-- Every operation answers a next state (00 R9, 41 R143): none faults and none is refused. -/
theorem exec_next (i : Instr) (s : State) : ∃ t, exec i s = .next t := by
  cases i <;> try exact ⟨_, rfl⟩
  simp only [exec, execIdle]
  split <;> exact ⟨_, rfl⟩

/-- A step that answers a next state is one operation, or a move of the host's, on an instance of the block. -/
theorem step_cases (s t : State) (h : step s = .next t) :
    s.params.wellFormed = true
      ∧ ((∃ i s', nextMove s = .run i s' ∧ exec i s' = .next t) ∨ nextMove s = .host t) := by
  unfold step at h
  split at h
  · rename_i hw
    refine ⟨hw, ?_⟩
    cases hm : nextMove s with
    | run i s' => exact .inl ⟨i, s', rfl, by simpa [hm] using h⟩
    | host s' => exact .inr (by simpa [hm] using h)
    | refuse r => simp [hm] at h
  · cases h

/-- A step is a run of an operation where the next move is one. -/
theorem step_run (s s' : State) (i : Instr) (hw : s.params.wellFormed = true) (h : nextMove s = .run i s') :
    step s = exec i s' := by
  simp [step, hw, h]

/-- A step is the host's move where the next move is one. -/
theorem step_host (s s' : State) (hw : s.params.wellFormed = true) (h : nextMove s = .host s') :
    step s = .next s' := by
  simp [step, hw, h]

/-- What a micro-operation performed with an event used up is: a run, or in IDLE only the event's use. -/
theorem performUop_cases (rest : List HostEvent) (s : State) :
    (s.seq = .idle ∧ performUop rest s = .host { s with host := rest })
      ∨ (s.seq ≠ .idle ∧ performUop rest s = .run (uopInstr s.seq) { s with host := rest }) := by
  by_cases h : s.seq = .idle <;> simp [performUop, h]

/-- A block that is not ready for a command is not in IDLE (30 R93). -/
theorem seq_ne_idle_of_not_ready (s : State) (i : Instr) (h : ¬ commandReady s i = true) : s.seq ≠ .idle := by
  intro e
  simp [commandReady, e] at h

/-- What the sequencer runs, and on what: the micro-operation at `seq` (in IDLE only where the host is exhausted), or a
presented command the block is ready for; on the state itself or with the host's event used up. -/
theorem nextMove_run_cases (s s' : State) (i : Instr) (h : nextMove s = .run i s') :
    ∃ rest, s' = { s with host := rest }
      ∧ (i = uopInstr s.seq ∧ (s.seq = .idle → s.host = [] ∧ rest = [])
        ∨ ∃ w, i = decodeCmd w ∧ commandReady s i = true ∧ (s.host = .cmd w :: rest ∨ s.host = .whenReady w :: rest)) := by
  have uop : ∀ rest, performUop rest s = .run i s' → s' = { s with host := rest } ∧ i = uopInstr s.seq ∧ s.seq ≠ .idle := by
    intro rest h
    rcases performUop_cases rest s with ⟨_, e⟩ | ⟨hi, e⟩ <;> rw [e] at h <;> cases h
    exact ⟨rfl, rfl, hi⟩
  unfold nextMove at h
  split at h
  case h_1 hh => cases h; exact ⟨[], by simp [← hh], .inl ⟨rfl, fun _ => ⟨hh, rfl⟩⟩⟩
  case h_2 rest hh =>
    obtain ⟨rfl, rfl, hi⟩ := uop rest h
    exact ⟨rest, rfl, .inl ⟨rfl, fun e => absurd e hi⟩⟩
  case h_3 w rest hh =>
    unfold offerCommand at h
    split at h
    · rename_i hr
      cases h
      exact ⟨rest, rfl, .inr ⟨w, rfl, hr, .inl hh⟩⟩
    · obtain ⟨rfl, rfl, hi⟩ := uop rest h
      exact ⟨rest, rfl, .inl ⟨rfl, fun e => absurd e hi⟩⟩
  case h_4 w rest hh =>
    unfold awaitReady at h
    split at h
    · rename_i hr
      cases h
      exact ⟨rest, rfl, .inr ⟨w, rfl, hr, .inr hh⟩⟩
    · rename_i hr
      cases h
      exact ⟨s.host, rfl, .inl ⟨rfl, fun e => absurd e (seq_ne_idle_of_not_ready s _ hr)⟩⟩
  case h_5 rest hh =>
    unfold failContinue at h
    split at h
    · cases h
    · obtain ⟨rfl, rfl, hi⟩ := uop rest h
      exact ⟨rest, rfl, .inl ⟨rfl, fun e => absurd e hi⟩⟩
  all_goals first
    | cases h
    | (unfold ownedByHost at h; split at h <;> cases h)

/-- What a host move can be: a failed continue channel while held; a reset; a change of the controller; in IDLE, an event
that asks for nothing; or, in IDLE, a write of what the host owns. -/
theorem nextMove_host_cases (s t : State) (h : nextMove s = .host t) :
    (∃ rest, s.host = .contFail :: rest ∧ held s = true ∧ t = { s with host := rest, seq := .fatal })
      ∨ (∃ inside rest, s.host = .rst inside :: rest ∧ t = applyReset inside { s with host := rest })
      ∨ (∃ c rest, s.host = .buttons c :: rest ∧ t = { s with host := rest, controller := c })
      ∨ (s.seq = .idle ∧ ∃ e rest, s.host = e :: rest ∧
          (((e = .quiet ∨ e = .contFail) ∧ t = { s with host := rest })
            ∨ (∃ a v, e = .poke a v ∧ t = { s with host := rest, ram := memWrite s.ram a v })
            ∨ (∃ c, e = .setCpu c ∧ t = { s with host := rest, cpu := c })
            ∨ (∃ p, e = .setTimer p ∧ t = { s with host := rest, timer := p })
            ∨ (∃ p, e = .setInput p ∧ t = { s with host := rest, input := p })
            ∨ (∃ p, e = .setPpu p ∧ t = { s with host := rest, ppu := p }))) := by
  have still : ∀ rest, performUop rest s = .host t → s.seq = .idle ∧ t = { s with host := rest } := by
    intro rest h
    rcases performUop_cases rest s with ⟨hi, e⟩ | ⟨_, e⟩ <;> rw [e] at h <;> cases h
    exact ⟨hi, rfl⟩
  unfold nextMove at h
  split at h
  case h_1 => cases h
  case h_2 rest hh =>
    obtain ⟨hi, rfl⟩ := still rest h
    exact .inr (.inr (.inr ⟨hi, _, rest, hh, .inl ⟨.inl rfl, rfl⟩⟩))
  case h_3 w rest hh =>
    unfold offerCommand at h
    split at h
    · cases h
    · rename_i hr
      exact absurd (still rest h).1 (seq_ne_idle_of_not_ready s _ hr)
  case h_4 => unfold awaitReady at h; split at h <;> cases h
  case h_5 rest hh =>
    unfold failContinue at h
    split at h
    · rename_i hheld
      cases h
      exact .inl ⟨rest, hh, hheld, rfl⟩
    · obtain ⟨hi, rfl⟩ := still rest h
      exact .inr (.inr (.inr ⟨hi, _, rest, hh, .inl ⟨.inr rfl, rfl⟩⟩))
  case h_6 inside rest hh => cases h; exact .inr (.inl ⟨inside, rest, hh, rfl⟩)
  case h_7 c rest hh => cases h; exact .inr (.inr (.inl ⟨c, rest, hh, rfl⟩))
  case h_8 a v rest hh =>
    unfold ownedByHost at h
    split at h
    · cases h; exact .inr (.inr (.inr ⟨‹_›, _, rest, hh, .inr (.inl ⟨a, v, rfl, rfl⟩)⟩))
    · cases h
  case h_9 c rest hh =>
    unfold ownedByHost at h
    split at h
    · cases h; exact .inr (.inr (.inr ⟨‹_›, _, rest, hh, .inr (.inr (.inl ⟨c, rfl, rfl⟩))⟩))
    · cases h
  case h_10 p rest hh =>
    unfold ownedByHost at h
    split at h
    · cases h; exact .inr (.inr (.inr ⟨‹_›, _, rest, hh, .inr (.inr (.inr (.inl ⟨p, rfl, rfl⟩)))⟩))
    · cases h
  case h_11 p rest hh =>
    unfold ownedByHost at h
    split at h
    · cases h; exact .inr (.inr (.inr ⟨‹_›, _, rest, hh, .inr (.inr (.inr (.inr (.inl ⟨p, rfl, rfl⟩))))⟩))
    · cases h
  case h_12 p rest hh =>
    unfold ownedByHost at h
    split at h
    · cases h; exact .inr (.inr (.inr ⟨‹_›, _, rest, hh, .inr (.inr (.inr (.inr (.inr ⟨p, rfl, rfl⟩))))⟩))
    · cases h

/-- A reset writes the block's registers and the free-value counter; with no micro-operation cut short, nothing else. -/
theorem applyReset_none (s : State) : applyReset none s = resetRegisters s := rfl

/-- A reset inside a micro-operation leaves the stores already made, then resets the registers. -/
theorem applyReset_ram (k : Nat) (s : State) :
    (applyReset (some k) s).ram = memWriteAll s.ram ((uopWrites s).take k) := rfl

end Sys2Proof.Machine
end

