-- ==== Sys2Proof/Machine/Script.lean ====
section
/-!
DEFINITION. The script syntax of the spec (30 R105, R106): its lines as data, their check, the command words a line
assembles to, a reader of script text, and the host that presents the words in order (30 R93, R105). The machine does not
use it; it says which host a script is.
-/

namespace Sys2Proof.Machine

/-- A flag name in SETFLAGS's operand list (30 R105). -/
inductive ScriptFlag where
  | step | line | screen | log
deriving DecidableEq, Repr

/-- One line of a script: a command of 30 R105 or a pseudo-command of 30 R106; `blank` is a line with nothing but a
comment. -/
inductive ScriptLine where
  | nop
  | step
  | frame
  | cont
  /-- the flag list; the empty list is the word `none` -/
  | setflags (flags : List ScriptFlag)
  | steps (n : Nat)
  | frames (n : Nat)
  | conts (n : Nat)
  | clearflags
  | blank
deriving DecidableEq, Repr

/-- What 30 R105 adds to a flag: 1, 2, 4, 8. -/
def scriptFlagValue : ScriptFlag → Nat
  | .step => 1
  | .line => 2
  | .screen => 4
  | .log => 8

/-- A flag list has no repeats (30 R105). -/
def scriptLineWellFormed : ScriptLine → Bool
  | .setflags fs => decide fs.Nodup
  | _ => true

/-- SETFLAGS's word for a flag list: `0x40` plus the values of its flags (30 R105). -/
def setflagsWord (fs : List ScriptFlag) : Byte := BitVec.ofNat 8 (0x40 + (fs.map scriptFlagValue).sum)

/-- The command words of a line, pseudo-commands expanded (30 R105, R106). -/
def assembleLine : ScriptLine → List Byte
  | .nop => [0x00]
  | .step => [0x10]
  | .frame => [0x20]
  | .cont => [0x30]
  | .setflags fs => [setflagsWord fs]
  | .steps n => List.replicate n 0x10
  | .frames n => List.replicate n 0x20
  | .conts n => List.replicate n 0x30
  | .clearflags => [0x40]
  | .blank => []

/-- The command words of a script, in order. -/
def assembleScript (ls : List ScriptLine) : List Byte := ls.flatMap assembleLine

/-- The host that presents the words of a script in order, each as soon as the block is ready for it (30 R93, R105). -/
def scriptHost (ls : List ScriptLine) : List HostEvent := (assembleScript ls).map .whenReady

/-- The pieces of a text between separators. -/
def splitAt (sep : Char) : List Char → List (List Char)
  | [] => [[]]
  | c :: cs =>
    match splitAt sep cs with
    | [] => [[]]
    | piece :: pieces => if c = sep then [] :: piece :: pieces else (c :: piece) :: pieces

/-- The text before a comment (30 R105). -/
def beforeComment : List Char → List Char
  | [] => []
  | c :: cs => if c = ';' then [] else c :: beforeComment cs

/-- The words of a line: its pieces between spaces, the comment and empty pieces left out. -/
def lineTokens (cs : List Char) : List (List Char) :=
  (splitAt ' ' (beforeComment cs)).filter (fun t => !t.isEmpty)

/-- A decimal digit. -/
def readDigit (c : Char) : Option Nat :=
  if '0'.toNat ≤ c.toNat ∧ c.toNat ≤ '9'.toNat then some (c.toNat - '0'.toNat) else none

/-- A decimal number read onto what stands before it. -/
def readDigits (before : Nat) : List Char → Option Nat
  | [] => some before
  | c :: cs => (readDigit c).bind (fun d => readDigits (10 * before + d) cs)

/-- A decimal number of at least one digit. -/
def readNumber : List Char → Option Nat
  | [] => none
  | c :: cs => readDigits 0 (c :: cs)

/-- A flag name (30 R105). -/
def readFlag (cs : List Char) : Option ScriptFlag :=
  if cs = ['s', 't', 'e', 'p'] then some .step
  else if cs = ['l', 'i', 'n', 'e'] then some .line
  else if cs = ['s', 'c', 'r', 'e', 'e', 'n'] then some .screen
  else if cs = ['l', 'o', 'g'] then some .log
  else none

/-- All answers of a list, or none where one has none. -/
def allOf {α : Type} : List (Option α) → Option (List α)
  | [] => some []
  | x :: xs => x.bind (fun a => (allOf xs).map (fun as => a :: as))

/-- SETFLAGS's operand: a comma-separated list of flags, or the word `none` (30 R105). -/
def readFlagList (cs : List Char) : Option (List ScriptFlag) :=
  if cs = ['n', 'o', 'n', 'e'] then some [] else allOf ((splitAt ',' cs).map readFlag)

/-- A command without operand (30 R105, R106). -/
def readBareCommand (t : List Char) : Option ScriptLine :=
  if t = ['N', 'O', 'P'] then some .nop
  else if t = ['S', 'T', 'E', 'P'] then some .step
  else if t = ['F', 'R', 'A', 'M', 'E'] then some .frame
  else if t = ['C', 'O', 'N', 'T'] then some .cont
  else if t = ['C', 'L', 'E', 'A', 'R', 'F', 'L', 'A', 'G', 'S'] then some .clearflags
  else none

/-- A command with one operand (30 R105, R106). -/
def readCommandWith (t arg : List Char) : Option ScriptLine :=
  if t = ['S', 'E', 'T', 'F', 'L', 'A', 'G', 'S'] then (readFlagList arg).map .setflags
  else if t = ['S', 'T', 'E', 'P', 'S'] then (readNumber arg).map .steps
  else if t = ['F', 'R', 'A', 'M', 'E', 'S'] then (readNumber arg).map .frames
  else if t = ['C', 'O', 'N', 'T', 'S'] then (readNumber arg).map .conts
  else none

/-- One line of script text; none where it is no line of the syntax or repeats a flag (30 R105). -/
def readLine (cs : List Char) : Option ScriptLine :=
  let line : Option ScriptLine := match lineTokens cs with
    | [] => some .blank
    | [t] => readBareCommand t
    | [t, arg] => readCommandWith t arg
    | _ => none
  line.filter scriptLineWellFormed

/-- A script's text, a line of the syntax on every line. -/
def readScript (cs : List Char) : Option (List ScriptLine) := allOf ((splitAt '\n' cs).map readLine)

end Sys2Proof.Machine
end

