-- ==== Sys2Proof/Tests/Slice0.lean ====
section
/-!
SUPPORT. Small tests, each with the vector of 95_test_vectors.md or the rule its expected result comes from, and one
witness for each statement that has hypotheses.
-/

namespace Sys2Proof.Tests

open Sys2Proof Sys2Proof.Machine

/-! ## Helpers -/

/-- The launch state of 95 section 2: the block just reset, with the fixture behind the ports. -/
def start : State := { State.reset with params := { defaultParams with collaborators := .fixture } }

/-- The start state at a sequencer position. -/
def at' (u : Uop) : State := { start with seq := u }

/-- The start state at a position, in a frame. -/
def inside (u : Uop) (phase : Phase) (line : BitVec 8) (counter : Nat) : State :=
  { at' u with inFrame := true, phase := phase, line := line, scanlineCycleCounter := counter }

/-- The state an outcome holds, or the start state. -/
def nextOr (o : Host.Outcome State Fault Refusal) : State :=
  match o with
  | .next t => t
  | _ => start

/-- What an operation gives from a state. -/
def run (i : Instr) (s : State) : State := nextOr (exec i s)

/-- What a step gives from a state. -/
def stepOf (s : State) : State := nextOr (step s)

/-- The refusal of an outcome. -/
def refusalOf (o : Host.Outcome State Fault Refusal) : Option Refusal :=
  match o with
  | .refused r => some r
  | _ => none

/-- A state held at a pause point. -/
def heldAt (u : Uop) (flags : BitVec 4) : State :=
  { inside u (if u = .fPause then .tail else .visible) (if u = .fPause then 154 else 3) (if u = .uSstep then 0 else 456) with
    cost := 4, paused := true, flags := flags }

/-- A state with an interrupt setting (95 section 3.5). -/
def irq (ime : Bool) (ie iflag : Byte) : State :=
  { at' .uIrq with cpu := { launchCpu with ime := ime }, ram := memWrite (memWrite [] 0xFFFF ie) 0xFF0F iflag }

/-- A state at `M_EVAL` (95 section 3.3). -/
def obs (phase : Phase) (counter : Nat) (prev : Mode) (stat iflag ly lyc : Byte) : State :=
  { inside .mEval phase 0 counter with
    currentMode := prev
    previousMode := prev
    ram := memWriteAll [] [⟨0xFF41, stat⟩, ⟨0xFF0F, iflag⟩, ⟨0xFF44, ly⟩, ⟨0xFF45, lyc⟩] }

/-! ## WellFormed: an ill-formed term for each check -/

theorem test_default_params_well_formed : defaultParams.wellFormed = true := by decide

theorem test_budget_zero_refused : { defaultParams with scanlineCycleBudget := 0 }.wellFormed = false := by decide

theorem test_no_tail_lines_refused : { defaultParams with vblankLines := 0 }.wellFormed = false := by decide

theorem test_oam_end_above_hblank_refused : { defaultParams with oamEnd := 253 }.wellFormed = false := by decide

theorem test_equal_addresses_refused : { defaultParams with aLYC := 0xFF44 }.wellFormed = false := by decide

theorem test_equal_request_bits_refused : { defaultParams with ifStat := 0 }.wellFormed = false := by decide

theorem test_request_bit_five_refused : { defaultParams with ifTimer := 5 }.wellFormed = false := by decide

theorem test_equal_select_bits_refused : { defaultParams with statSelPt := 3 }.wellFormed = false := by decide

theorem test_select_bit_in_mode_field_refused : { defaultParams with statSelPt := 1 }.wellFormed = false := by decide

theorem test_equal_mode_codes_refused : { defaultParams with codeVblank := 0 }.wellFormed = false := by decide

theorem test_step_refuses_no_block :
    refusalOf (step { start with params := { defaultParams with oamEnd := 253 } }) = some .notAnInstance := by decide

/-- V-E8 to V-E11: four reserved words. -/
theorem test_reserved_words_undefined : commandWordDefined 0x11 = false ∧ commandWordDefined 0x3F = false
    ∧ commandWordDefined 0x50 = false ∧ commandWordDefined 0xFF = false := by decide

/-! ## Decoding: words written bit by bit from 30 R92 and R96 -/

/-- V-E1 to V-E7. -/
theorem test_decode_commands : decodeCmd 0b00000000 = .nop ∧ decodeCmd 0b00010000 = .step ∧ decodeCmd 0b00100000 = .frame
    ∧ decodeCmd 0b00110000 = .cont ∧ decodeCmd 0b01000000 = .setflags 0b0000 ∧ decodeCmd 0b01001010 = .setflags 0b1010
    ∧ decodeCmd 0b01001111 = .setflags 0b1111 := by decide

/-- V-E8 to V-E11. -/
theorem test_decode_reserved : decodeCmd 0x11 = .nop ∧ decodeCmd 0x3F = .nop ∧ decodeCmd 0x50 = .nop
    ∧ decodeCmd 0xFF = .nop := by decide

theorem test_decode_step_uops : decodeTableWord 5 0b00001 = some .uIrq ∧ decodeTableWord 5 0b00010 = some .uClrx
    ∧ decodeTableWord 5 0b00011 = some .uFetch ∧ decodeTableWord 5 0b00100 = some .uSstep
    ∧ decodeTableWord 5 0b00101 = some .uAcc ∧ decodeTableWord 5 0b00110 = some .uTimer
    ∧ decodeTableWord 5 0b00111 = some .uInput ∧ decodeTableWord 5 0b01000 = some .uIme
    ∧ decodeTableWord 5 0b01001 = some .uExec ∧ decodeTableWord 5 0b01010 = some .uDma
    ∧ decodeTableWord 5 0b01011 = some .uRetire := by decide

theorem test_decode_frame_uops : decodeTableWord 5 0b01100 = some .mEval ∧ decodeTableWord 5 0b01101 = some .fStart
    ∧ decodeTableWord 5 0b01110 = some .lEntry ∧ decodeTableWord 5 0b01111 = some .lTest
    ∧ decodeTableWord 5 0b10000 = some .lCommit ∧ decodeTableWord 5 0b10001 = some .lInc
    ∧ decodeTableWord 5 0b10010 = some .lPause ∧ decodeTableWord 5 0b10011 = some .lNext
    ∧ decodeTableWord 5 0b10100 = some .vEntry ∧ decodeTableWord 5 0b10101 = some .fPause
    ∧ decodeTableWord 5 0b10110 = some .fEnd := by decide

theorem test_decode_rest_uops : decodeTableWord 5 0b00000 = some .idle ∧ decodeTableWord 5 0b10111 = some .fatal := by decide

/-- 30 R96: the codes 0x18 to 0x1F are no operation; neither is a width of no format. -/
theorem test_decode_refuses : decodeTableWord 5 0x18 = none ∧ decodeTableWord 5 0x1F = none ∧ decodeTableWord 5 0x20 = none
    ∧ decodeTableWord 8 0x100 = none ∧ decodeTableWord 7 0x00 = none := by decide

/-- A word of each format, placed where the next step finds it, is what the next step runs. -/
theorem test_with_fetch_word_runs : stepOf (start.withFetchWord 8 0x20) = at' .fStart
    ∧ stepOf (start.withFetchWord 5 0x0E) = at' .lTest
    ∧ stepOf ((at' .uTimer).withFetchWord 8 0x10) = at' .uIrq := by decide

/-! ## Scripts (30 R105, R106) -/

/-- V-E14. -/
theorem test_script_assembles : assembleLine (.setflags [.step, .screen]) = [0x45]
    ∧ assembleLine (.steps 3) = [0x10, 0x10, 0x10] ∧ assembleLine .clearflags = [0x40] := by decide

/-- The example of 45 R251: `SETFLAGS line,log` is word 0x4A. -/
theorem test_script_text : (readScript "SETFLAGS line,log ; both\nSTEPS 2\nSETFLAGS none".toList).map assembleScript
    = some [0x4A, 0x10, 0x10, 0x40] := by decide

theorem test_script_refuses : readLine "SETFLAGS step,step".toList = none ∧ readLine "U_IRQ".toList = none
    ∧ readLine "STEPS".toList = none ∧ readLine "step".toList = none := by decide

/-! ## Commands -/

/-- V-E1, and 45 R250's example: NOP leaves a held block held. -/
theorem test_nop : run .nop start = start ∧ run .nop (heldAt .lPause 2) = heldAt .lPause 2 := by decide

/-- V-E2; V-E12: not taken while paused. -/
theorem test_step : run .step { start with inFrame := true } = at' .uIrq
    ∧ run .step (heldAt .uSstep 1) = heldAt .uSstep 1 := by decide

/-- V-E3; V-E13: not taken while a micro-operation is in progress. -/
theorem test_frame : run .frame start = at' .fStart ∧ run .frame (at' .uTimer) = at' .uTimer := by decide

/-- V-D1: CONT releases the single-step pause and the step completes from there. -/
theorem test_cont_releases : (run .cont (heldAt .uSstep 1)).paused = false ∧ (run .cont (heldAt .uSstep 1)).seq = .uAcc := by
  decide

/-- V-D2, V-E4: a CONT in IDLE is not remembered. -/
theorem test_cont_idle : run .cont start = start := by decide

/-- V-E6. -/
theorem test_setflags : (run (.setflags 0b1010) start).flags = 0b1010 ∧ (run (.setflags 0b1010) start).seq = .idle := by decide

/-- V-D3: SETFLAGS taken while held does not release the pause; V-D6: it is not taken in FATAL. -/
theorem test_setflags_held : run (.setflags 0) (heldAt .uSstep 1) = { heldAt .uSstep 1 with flags := 0 }
    ∧ run (.setflags 0) (heldAt .fatal 1) = heldAt .fatal 1 := by decide

/-- V-E8: the reserved word 0x11 is not a step. -/
theorem test_idle_reserved_word : run .idle { start with host := [.cmd 0x11] } = start := by decide

/-- V-E2 through IDLE; with no command nothing changes (45 R256). -/
theorem test_idle_step_word : run .idle { start with host := [.cmd 0x10] } = at' .uIrq ∧ run .idle start = start := by decide

/-- V-D6: no word is taken in FATAL, and nothing changes; a reset after it is (45 R258). -/
theorem test_fatal : run .fatal (heldAt .fatal 2) = heldAt .fatal 2
    ∧ stepOf { heldAt .fatal 2 with host := [.cmd 0x30, .rst none] } = { heldAt .fatal 2 with host := [.rst none] } := by
  decide

/-- V-D1: a STEP offered at the hold is not taken, and the CONT after it releases the hold; 70 R328: a CONT sent while an
operation runs is lost. -/
theorem test_untaken_words_are_lost :
    stepOf (stepOf { heldAt .uSstep 1 with host := [.cmd 0x10, .cmd 0x30] }) =
      { heldAt .uSstep 1 with paused := false, seq := .uAcc }
    ∧ stepOf { at' .uInput with host := [.cmd 0x30, .quiet] } = { at' .uIme with host := [.quiet] } := by decide

/-- 30 R105: the host of a script waits until the block is ready for its word. -/
theorem test_script_host_waits :
    stepOf { at' .uInput with host := scriptHost [.frame] } = { at' .uIme with host := scriptHost [.frame] }
    ∧ stepOf { start with host := scriptHost [.frame] } = at' .fStart := by decide

/-! ## The step -/

/-- V-I1. -/
theorem test_u_irq_dispatches : run .uIrq (irq true 4 4) =
    { at' .uClrx with
      cpu := { launchCpu with pc := 0x0050, sp := 0xFFFC }
      ram := [(0xFFFD, 0x01), (0xFFFF, 0x04)] } := by decide

/-- V-I3, V-I4, V-I6, and V-I2, V-I5, V-I7 where nothing changes. -/
theorem test_u_irq_priority : (run .uIrq (irq true 0x1F 0x1F)).cpu.pc = 0x0040
    ∧ (run .uIrq (irq true 0x06 0x07)).cpu.pc = 0x0048 ∧ (run .uIrq (irq true 0x10 0x10)).cpu.pc = 0x0060
    ∧ run .uIrq (irq false 4 4) = { irq false 4 4 with seq := .uClrx }
    ∧ run .uIrq (irq true 0xE0 0xE0) = { irq true 0xE0 0xE0 with seq := .uClrx }
    ∧ run .uIrq (irq true 4 3) = { irq true 4 3 with seq := .uClrx } := by decide

/-- V-I8: the stack wraps, and a push lands on IE. -/
theorem test_dispatch_wraps : (takeInterrupt { irq true 1 1 with cpu := { launchCpu with ime := true, sp := 1, pc := 0xABCD } }).ram
    = [(0x0000, 0xAB), (0xFFFF, 0xCD)] := by decide

/-- 41 R132's example. -/
theorem test_u_clrx : run .uClrx { at' .uClrx with cpu := { launchCpu with extra := 4 } } = at' .uFetch := by decide

/-- V-S1: byte 0x00 at 0x0100. -/
theorem test_u_fetch : run .uFetch { at' .uFetch with base := 9 } =
    { at' .uSstep with base := 4, cpu := { launchCpu with pc := 0x0101 } } := by decide

/-- V-S7: the pc wraps, and the opcode is the byte at 0xFFFF. -/
theorem test_u_fetch_wraps :
    (run .uFetch { at' .uFetch with cpu := { launchCpu with pc := 0xFFFF }, ram := [(0xFFFF, 0x18)] }).cpu.pc = 0x0000
    ∧ (run .uFetch { at' .uFetch with cpu := { launchCpu with pc := 0xFFFF }, ram := [(0xFFFF, 0x18)] }).base = 8 := by decide

/-- V-D1: the hold, with no dump. -/
theorem test_u_sstep_holds : run .uSstep { at' .uSstep with flags := 1 } = { at' .uSstep with flags := 1, paused := true } := by
  decide

/-- V-D4: one dump, and no second one while held; V-D5: no dump with the log flag alone. -/
theorem test_u_sstep_dump : (run .uSstep { at' .uSstep with flags := 9 }).dumps.length = 1
    ∧ (run .uSstep (run .uSstep { at' .uSstep with flags := 9 })).dumps.length = 1
    ∧ (run .uSstep { at' .uSstep with flags := 8 }).dumps = [] := by decide

/-- V-S2. -/
theorem test_u_acc : run .uAcc { at' .uAcc with
      base := 8, cpu := { launchCpu with extra := 4 }, scanlineCycleCounter := 440, totalCycles := 100000 } =
    { at' .uTimer with
      base := 8, cpu := { launchCpu with extra := 4 }, scanlineCycleCounter := 452, totalCycles := 100012, cost := 12 } := by
  decide

/-- V-S5: the largest cost does not wrap; V-S3: a zero cost is accepted. -/
theorem test_u_acc_bounds : (run .uAcc { at' .uAcc with base := 255, cpu := { launchCpu with extra := 255 } }).cost = 510
    ∧ (run .uAcc (at' .uAcc)).totalCycles = 0 := by decide

/-- 41 R136's example: the fixture timer is advanced by 12. -/
theorem test_u_timer : run .uTimer { at' .uTimer with cost := 12, timer := ⟨[5]⟩ } =
    { at' .uInput with cost := 12, timer := ⟨[17]⟩ } := by decide

/-- V-S1: the fixture poller does nothing. -/
theorem test_u_input : run .uInput (at' .uInput) = at' .uIme := by decide

/-- 41 R138's example. -/
theorem test_u_ime : run .uIme { at' .uIme with cpu := { launchCpu with imePending := some true } } =
    { at' .uExec with cpu := { launchCpu with ime := true } } := by decide

/-- V-I9: a pending enable survives the dispatch that clears `cpu.ime`, and `U_IME` sets it back; with nothing pending nothing
changes (44 R238). -/
theorem test_u_ime_other :
    (run .uIme (run .uIrq { irq true 1 1 with cpu := { launchCpu with ime := true, imePending := some true } })).cpu.ime = true
    ∧ run .uIme (at' .uIme) = at' .uExec := by decide

/-- 95 section 2: JR -2 from 0x0102 (the pc past the opcode) goes to 0x0101. -/
theorem test_u_exec_jr : (run .uExec { at' .uExec with
      ir := ⟨0x18⟩, cpu := { launchCpu with pc := 0x0102 }, ram := [(0x0102, 0xFE)] }).cpu.pc = 0x0101 := by decide

/-- 95 section 2: EI requests an enable and does not apply it (P4). -/
theorem test_u_exec_ei : (run .uExec { at' .uExec with ir := ⟨0xFB⟩ }).cpu = { launchCpu with imePending := some true } := by
  decide

/-- V-S1: no transfer pending, nothing changes. -/
theorem test_u_dma : run .uDma (at' .uDma) = at' .uRetire := by decide

/-- 41 R141's example, and the return into a frame. -/
theorem test_u_retire : run .uRetire { at' .uRetire with stepsExecuted := 2 } = { start with stepsExecuted := 3 }
    ∧ (run .uRetire (inside .uRetire .visible 0 4)).seq = .mEval := by decide

/-! ## The mode machine -/

/-- V-M0. -/
theorem test_derive : deriveMode defaultParams .visible 251 = .pixelTransfer ∧ deriveMode defaultParams .visible 252 = .hBlank
    ∧ deriveMode defaultParams .tail 4 = .vBlank
    ∧ deriveMode { defaultParams with oamEnd := 80 } .visible 79 = .oamScan
    ∧ deriveMode { defaultParams with oamEnd := 80 } .visible 80 = .pixelTransfer := by decide

/-- V-M1. -/
theorem test_m_eval_hblank : run .mEval (obs .visible 252 .pixelTransfer 0x0B 0 0 0) =
    { inside .lTest .visible 0 252 with
      currentMode := .hBlank, previousMode := .hBlank, ram := [(0xFF0F, 0x02), (0xFF41, 0x08)] } := by decide

/-- V-M3, V-M5, V-M6, V-M7, V-M9 and V-M10: the byte IF or STAT after. -/
theorem test_m_eval_vectors : readByte (run .mEval (obs .visible 4 .hBlank 0x40 0 10 10)) 0xFF0F = 0x02
    ∧ readByte (run .mEval (obs .visible 4 .vBlank 0x40 0 0 0)) 0xFF0F = 0x00
    ∧ readByte (run .mEval (obs .tail 4 .hBlank 0x50 0 144 144)) 0xFF0F = 0x02
    ∧ readByte (run .mEval (obs .visible 252 .pixelTransfer 0x08 0xE0 0 0)) 0xFF0F = 0xE2
    ∧ readByte (run .mEval (obs .visible 252 .hBlank 0x08 0 0 0)) 0xFF0F = 0x00
    ∧ readByte (run .mEval (obs .tail 4 .vBlank 0x84 0 0 0)) 0xFF41 = 0x85 := by decide

/-! ## The frame -/

/-- V-F5. -/
theorem test_f_start : run .fStart { at' .fStart with line := 154, phase := .tail, ram := [(0xFF44, 154)] } =
    inside .lEntry .visible 0 0 := by decide

/-- V-F6. -/
theorem test_l_entry : run .lEntry { inside .lEntry .visible 1 460 with totalCycles := 460 } =
    { inside .lTest .visible 1 0 with totalCycles := 460 } := by decide

/-- V-F1. -/
theorem test_l_test : (run .lTest (inside .lTest .visible 0 455)).seq = .uIrq
    ∧ (run .lTest (inside .lTest .visible 0 456)).seq = .lCommit ∧ (run .lTest (inside .lTest .tail 144 456)).seq = .lInc
    ∧ (run .lTest (inside .lTest .visible 0 464)).seq = .lCommit := by decide

/-- 43 R195's example: at the end of visible line 7 the PPU is called with LY = 7. -/
theorem test_l_commit : run .lCommit { inside .lCommit .visible 7 456 with ram := [(0xFF44, 7)], ppu := ⟨[6]⟩ } =
    { inside .lInc .visible 7 456 with ram := [(0xFF44, 7)], ppu := ⟨[6, 7]⟩ } := by decide

/-- V-F2: 143 to 144 in a visible line, 255 to 0 in the tail. -/
theorem test_l_inc : run .lInc { inside .lInc .visible 143 456 with ram := [(0xFF44, 143)] } =
      { inside .lPause .visible 143 456 with ram := [(0xFF44, 144)] }
    ∧ run .lInc { inside .lInc .tail 144 456 with ram := [(0xFF44, 255)] } = inside .lNext .tail 144 456 := by decide

/-- 43 R197's example: line-by-line holds; other flags do not. -/
theorem test_l_pause : run .lPause { inside .lPause .visible 0 456 with flags := 2 } =
      { inside .lPause .visible 0 456 with flags := 2, paused := true }
    ∧ (run .lPause { inside .lPause .visible 0 456 with flags := 13 }).seq = .lNext := by decide

/-- V-F3. -/
theorem test_l_next : run .lNext (inside .lNext .visible 0 456) = inside .lEntry .visible 1 456
    ∧ run .lNext (inside .lNext .visible 143 456) = inside .vEntry .visible 144 456
    ∧ run .lNext (inside .lNext .tail 144 456) = inside .lEntry .tail 145 456
    ∧ run .lNext (inside .lNext .tail 153 456) = inside .fPause .tail 154 456 := by decide

/-- V-F4. -/
theorem test_v_entry : run .vEntry { inside .vEntry .visible 144 456 with ram := [(0xFF0F, 2)] } =
      { inside .lEntry .tail 144 456 with ram := [(0xFF0F, 3)] }
    ∧ readByte (run .vEntry { inside .vEntry .visible 144 456 with ram := [(0xFF0F, 1)] }) 0xFF0F = 1 := by decide

/-- 43 R201's example. -/
theorem test_f_pause : run .fPause { inside .fPause .tail 154 456 with flags := 4 } =
      { inside .fPause .tail 154 456 with flags := 4, paused := true }
    ∧ (run .fPause (inside .fPause .tail 154 456)).seq = .fEnd := by decide

/-- 43 R202. -/
theorem test_f_end : run .fEnd (inside .fEnd .tail 154 456) = { inside .idle .tail 154 456 with inFrame := false } := by decide

/-! ## The host -/

/-- V-D6: the failure of the continue channel, at a hold and outside one. -/
theorem test_cont_fail : stepOf { heldAt .lPause 2 with host := [.contFail] } = { heldAt .lPause 2 with seq := .fatal }
    ∧ stepOf { start with host := [.contFail] } = start := by decide

/-- V-R1: reset while held at `F_PAUSE` leaves the space alone. -/
theorem test_reset_keeps_space :
    (stepOf { heldAt .fPause 4 with host := [.rst none], ram := [(0xFF0F, 3), (0xFF44, 154)] }).ram = [(0xFF0F, 3), (0xFF44, 154)]
    ∧ (stepOf { heldAt .fPause 4 with host := [.rst none] }).seq = .idle
    ∧ (stepOf { heldAt .fPause 4 with host := [.rst none] }).flags = 0 := by decide

/-! ## Witnesses: the hypotheses of each statement, met together -/

theorem witness_DecodeOfEncodeIsTheInstruction : (Instr.setflags 0xF).wellFormed = true := by decide

theorem witness_CommandDecoderIsTotal : commandWordDefined 0x01 = false ∧ commandWordDefined 0x50 = false := by decide

theorem witness_SequencerCodesAreExactly24 : (0x17 : BitVec 5).toNat < 24 ∧ 24 ≤ (0x18 : BitVec 5).toNat := by decide

theorem witness_StepRunsTheMicroOperationAtSeq : start.params.wellFormed = true ∧ start.host = []
    ∧ { start with host := [.quiet] }.host = .quiet :: [] ∧ start.seq = .idle ∧ (at' .uIrq).seq ≠ .idle := by decide

theorem witness_StepRunsThePresentedCommand : start.params.wellFormed = true
    ∧ { start with host := [.cmd 0x4A] }.host = .cmd 0x4A :: []
    ∧ { start with host := [.whenReady 0x4A] }.host = .whenReady 0x4A :: [] ∧ commandReady start (decodeCmd 0x4A) = true := by decide

/-- One state for each clause: IDLE; paused; a micro-operation in progress; FATAL. -/
theorem witness_CommandsTakenExactlyWhereReady : start.seq = .idle
    ∧ ((heldAt .lPause 2).seq ≠ .idle ∧ (heldAt .lPause 2).seq ≠ .fatal ∧ (heldAt .lPause 2).paused = true)
    ∧ ((at' .uTimer).seq ≠ .idle ∧ (at' .uTimer).paused = false) ∧ (heldAt .fatal 2).seq = .fatal := by decide

/-- V-E12's word, held at `U_SSTEP`. -/
theorem witness_UntakenCommandHasNoEffect : (heldAt .uSstep 1).host = []
    ∧ commandReady (heldAt .uSstep 1) (decodeCmd 0x10) = false
    ∧ { heldAt .uSstep 1 with host := [.cmd 0x10] }.host = .cmd 0x10 :: [] ∧ ∃ t, step (heldAt .uSstep 1) = .next t :=
  ⟨by decide, by decide, rfl, _, rfl⟩

theorem witness_ContinueFailureIsFatalOnlyWhilePaused :
    let s := { heldAt .lPause 2 with host := [.contFail] }
    let u := { start with host := [.contFail] }
    (s.params.wellFormed = true ∧ PauseLegal s ∧ s.host = .contFail :: [] ∧ s.paused = true)
      ∧ (u.params.wellFormed = true ∧ PauseLegal u ∧ u.host = .contFail :: [] ∧ u.paused = false) := by
  simp only [PauseLegal]
  decide

theorem witness_OnlyResetLeavesFatal : (heldAt .fatal 2).seq = .fatal ∧ ∃ t, step (heldAt .fatal 2) = .next t :=
  ⟨by decide, _, rfl⟩

theorem witness_ResetInAnyState : start.params.wellFormed = true
    ∧ { heldAt .fatal 2 with host := [.rst none] }.host = .rst none :: []
    ∧ { at' .uTimer with host := [.rst (some 0)] }.host = .rst (some 0) :: [] := by decide

/-- One host for each clause, at the boundaries 0, 1 and 2. -/
theorem witness_ResetInsideObservationKeepsItsStores : start.params.wellFormed = true ∧ (at' .mEval).seq = .mEval
    ∧ { at' .mEval with host := [.rst (some 0)] }.host = .rst (some 0) :: []
    ∧ { at' .mEval with host := [.rst (some 1)] }.host = .rst (some 1) :: []
    ∧ { at' .mEval with host := [.rst (some 2)] }.host = .rst (some 2) :: [] := by decide

theorem witness_HostWritesTheSpaceInIdleOnly : start.params.wellFormed = true
    ∧ { start with host := [.poke 0xFFFF 7] }.host = .poke 0xFFFF 7 :: []
    ∧ { start with host := [.setCpu launchCpu] }.host = .setCpu launchCpu :: []
    ∧ { start with host := [.setTimer ⟨[3]⟩] }.host = .setTimer ⟨[3]⟩ :: []
    ∧ { start with host := [.setInput ⟨[3]⟩] }.host = .setInput ⟨[3]⟩ :: []
    ∧ { start with host := [.setPpu ⟨[3]⟩] }.host = .setPpu ⟨[3]⟩ :: [] ∧ start.seq = .idle ∧ (at' .uIrq).seq ≠ .idle := by
  decide

theorem witness_NopChangesNothing : commandWordDefined 0xFF = false ∧ start.seq = .idle
    ∧ ((heldAt .lPause 2).paused = true ∧ (heldAt .lPause 2).seq ≠ .fatal) := by decide

theorem witness_StepCommandBeginsOneStep : start.seq = .idle := by decide

theorem witness_FrameCommandBeginsOneFrame : { start with phase := .tail, line := 154 }.seq = .idle := by decide

theorem witness_ContReleasesThePause : start.params.hasDebug = true
    ∧ ((heldAt .uSstep 1).paused = true ∧ (heldAt .uSstep 1).seq = .uSstep)
    ∧ ((heldAt .lPause 2).paused = true ∧ (heldAt .lPause 2).seq = .lPause)
    ∧ ((heldAt .fPause 4).paused = true ∧ (heldAt .fPause 4).seq = .fPause) ∧ start.paused = false := by decide

theorem witness_SetflagsCopiesItsOperand : start.params.hasDebug = true ∧ start.seq = .idle
    ∧ ((heldAt .fPause 4).paused = true ∧ (heldAt .fPause 4).seq ≠ .fatal) := by decide

theorem witness_IdleAnswersThePresentedCommand :
    (∀ w rest, { start with host := [.quiet, .cmd 0x10] }.host ≠ .cmd w :: rest)
    ∧ (∀ w rest, { start with host := [.quiet, .cmd 0x10] }.host ≠ .whenReady w :: rest) ∧ start.seq = .idle
    ∧ { start with host := [.cmd 0xFF] }.host = .cmd 0xFF :: []
    ∧ { start with host := [.whenReady 0xFF] }.host = .whenReady 0xFF :: [] :=
  ⟨fun _ _ h => (nomatch h), fun _ _ h => (nomatch h), rfl, rfl, rfl⟩

theorem witness_ProductionBuildNeverPauses :
    { start with params := { defaultParams with hasDebug := false } }.params.hasDebug = false := by decide

/-- The least and the greatest source, with pushes that do not land on IF. -/
theorem witness_InterruptDispatchSavesAndVectors : dispatchSource (irq true 0x1F 0x1F) = some 0
    ∧ dispatchSource (irq true 0x10 0x10) = some 4
    ∧ (irq true 0x10 0x10).params.aIF ≠ (irq true 0x10 0x10).cpu.sp - 1
    ∧ (irq true 0x10 0x10).params.aIF ≠ (irq true 0x10 0x10).cpu.sp - 2 := by decide

theorem witness_NoDispatchChangesNothing : (irq false 4 4).cpu.ime = false
    ∧ readByte (irq true 0xE0 0xE0) (irq true 0xE0 0xE0).params.aIE
        &&& readByte (irq true 0xE0 0xE0) (irq true 0xE0 0xE0).params.aIF &&& 0x1F = 0 := by decide

theorem witness_SingleStepPause : start.params.hasDebug = true
    ∧ ((at' .uSstep).paused = false ∧ (at' .uSstep).flags.getLsbD 0 = false)
    ∧ ({ at' .uSstep with flags := 9 }.paused = false ∧ { at' .uSstep with flags := 9 }.flags.getLsbD 0 = true)
    ∧ (heldAt .uSstep 1).paused = true := by decide

theorem witness_PendingEnableIsAppliedAtIme : { launchCpu with imePending := some true }.imePending = some true
    ∧ start.cpu.imePending = none := by decide

theorem witness_StepLeavesModesAndLineAlone : Instr.uDma ∈ [Instr.uIrq, .uClrx, .uFetch, .uSstep, .uAcc, .uTimer, .uInput,
      .uIme, .uExec, .uDma, .uRetire] ∧ ∃ t, exec .uDma start = .next t :=
  ⟨by decide, _, rfl⟩

theorem witness_ElevenMicroOperationsInOrder : start.params.wellFormed = true ∧ (at' .uIrq).host = [] ∧ (at' .uIrq).seq = .uIrq
    ∧ (at' .uIrq).paused = false ∧ { at' .uIrq with flags := 0b1110 }.flags.getLsbD 0 = false := by decide

/-- The boundaries of each clause, with `OAM_END` = 80. -/
theorem witness_ModeIsDerivedFromPhaseAndCounter :
    let p := { defaultParams with oamEnd := 80 }
    79 < p.oamEnd ∧ (p.oamEnd ≤ 80 ∧ 80 < p.hblankStart) ∧ (p.oamEnd ≤ 251 ∧ 251 < p.hblankStart)
      ∧ (p.oamEnd ≤ 252 ∧ p.hblankStart ≤ 252) := by decide

theorem witness_ObservationWritesTheModeField : start.params.wellFormed = true := by decide

theorem witness_StatRequestIsRaisedOnQualifyingEdges : (obs .visible 252 .pixelTransfer 0x08 0 0 0).params.wellFormed = true := by
  decide

theorem witness_RepeatedObservationRaisesNothing :
    let s := obs .visible 252 .pixelTransfer 0x08 0 0 0
    let t := run .mEval s
    ∃ t', exec .mEval s = .next t ∧ t.previousMode = t.previousMode ∧ t.params = s.params ∧ s.params.wellFormed = true
      ∧ deriveMode t.params t.phase t.scanlineCycleCounter = deriveMode s.params s.phase s.scanlineCycleCounter
      ∧ exec .mEval t = .next t' :=
  ⟨_, rfl, rfl, rfl, by decide, rfl, rfl⟩

theorem witness_TwoPhasePolicyNeverScansOam : defaultParams.oamEnd = 0 := by decide

theorem witness_LineTestComparesWithTheBudget :
    (455 < start.params.scanlineCycleBudget) ∧ (start.params.scanlineCycleBudget ≤ 456)
    ∧ (inside .lTest .visible 0 456).phase = .visible ∧ (inside .lTest .tail 144 456).phase = .tail := by decide

theorem witness_LineIncrementWrapsAt256 : (inside .lInc .visible 143 456).phase = .visible
    ∧ (inside .lInc .tail 153 456).phase = .tail := by decide

theorem witness_LinePause : start.params.hasDebug = true
    ∧ ((at' .lPause).paused = false ∧ (at' .lPause).flags.getLsbD 1 = false)
    ∧ { at' .lPause with flags := 2 }.flags.getLsbD 1 = true ∧ (heldAt .lPause 2).paused = true := by decide

/-- The last and the next to last line of each part of the frame, and the two sides of 255. -/
theorem witness_NextLineCountsTheFrame :
    ((inside .lNext .visible 143 456).phase = .visible ∧ (run .lNext (inside .lNext .visible 143 456)).line.toNat = 144)
    ∧ ((inside .lNext .tail 153 456).phase = .tail
      ∧ (run .lNext (inside .lNext .tail 153 456)).line.toNat = 144 + start.params.vblankLines)
    ∧ (run .lNext (inside .lNext .visible 142 456)).line.toNat ≠ 144
    ∧ (run .lNext (inside .lNext .tail 152 456)).line.toNat ≠ 144 + start.params.vblankLines
    ∧ (inside .lNext .tail 254 456).line ≠ 255 ∧ (inside .lNext .tail 255 456).line = 255 := by decide

theorem witness_FramePause : start.params.hasDebug = true
    ∧ ((at' .fPause).paused = false ∧ (at' .fPause).flags.getLsbD 2 = false)
    ∧ { at' .fPause with flags := 4 }.flags.getLsbD 2 = true ∧ (heldAt .fPause 4).paused = true := by decide

theorem witness_OnlyVblankEntrySetsTheVblankBit : start.params.wellFormed = true
    ∧ Instr.lInc ∈ [Instr.mEval, .fStart, .lInc, .vEntry] ∧ Instr.lInc ≠ .vEntry ∧ ∃ t, exec .lInc start = .next t :=
  ⟨by decide, by decide, by decide, _, rfl⟩

/-- No store of the engine, of the timer and of the others goes to an address where they store nothing. -/
theorem witness_notStored : notStored (dmaWrites start) 0xFF46 ∧ notStored (timerAnswer start).writes 0xFF05
    ∧ notStored (inputAnswer start).writes 0xFF00 ∧ notStored (executeAnswer start).writes 0xFF44
    ∧ notStored (commitAnswer start).writes 0xFF44 := by
  simp only [notStored]
  decide

theorem witness_NoOtherMicroOperationStores : Instr.lTest ∉ [Instr.fStart, .lInc, .vEntry, .mEval, .uIrq, .uTimer, .uInput,
      .uExec, .uDma, .lCommit] ∧ ∃ t, exec .lTest start = .next t :=
  ⟨by decide, _, rfl⟩

theorem witness_CountersOnlyGrowWhereTheyMust : ∃ t, exec .uRetire start = .next t := ⟨_, rfl⟩

theorem witness_StepKeepsTheParameters : ∃ t, step start = .next t := ⟨_, rfl⟩

/-- A state inside a frame meets the whole invariant. -/
theorem witness_Legal : Legal { inside .uFetch .visible 143 455 with cost := 4 } where
  memory := by decide
  modes := rfl
  pause := by simp only [PauseLegal]; decide
  frame := ⟨by decide, by decide, fun _ => by show 143 < visibleLines; decide, by decide, by decide⟩
  counter := by simp only [CounterLegal]; decide

theorem witness_StepKeepsTheInvariant : ∃ t, step { inside .uFetch .visible 143 455 with cost := 4 } = .next t := ⟨_, rfl⟩

/-- A state held at the single-step pause meets the whole invariant. -/
theorem witness_Legal_held : Legal { heldAt .uSstep 1 with host := [.cmd 0x30] } where
  memory := by decide
  modes := rfl
  pause := by simp only [PauseLegal]; decide
  frame := ⟨by decide, by decide, fun _ => by show 3 < visibleLines; decide, by decide, by decide⟩
  counter := by simp only [CounterLegal]; decide

/-- A state in IDLE meets the whole invariant. -/
theorem witness_Legal_idle : Legal { start with host := [.cmd 0x41] } where
  memory := by decide
  modes := rfl
  pause := by simp only [PauseLegal]; decide
  frame := ⟨by decide, by decide, fun h => (nomatch h), by decide, by decide⟩
  counter := by simp only [CounterLegal]; decide

/-- Debug moves that meet the hypotheses (with `witness_Legal_held` and `witness_Legal_idle`): a CONT at a hold, where the
machine stands still, and a SETFLAGS in IDLE. -/
theorem witness_DebugDoesNotPerturbTheMachine :
    let held := { heldAt .uSstep 1 with host := [.cmd 0x30] }
    let idle := { start with host := [.cmd 0x41] }
    (¬ continueFails held ∧ standsStill held ∧ step held = .next (stepOf held) ∧ (stepOf held).paused = false)
      ∧ (¬ continueFails idle ∧ ¬ standsStill idle ∧ step idle = .next (stepOf idle) ∧ (stepOf idle).flags = 1) := by
  refine ⟨⟨fun h => ?_, by decide, rfl, rfl⟩, fun h => ?_, fun h => ?_, rfl, rfl⟩
  · obtain ⟨_, _, h⟩ := h
    cases h
  · obtain ⟨_, _, h⟩ := h
    cases h
  · exact absurd h.1 (by decide)

/-- What the machine without debug facilities is given: nothing for the debug commands and the untaken word, the command or
the event itself for the others. -/
theorem test_debug_free_events : debugFreeEvents { start with host := [.cmd 0x41] } = []
    ∧ debugFreeEvents { start with host := [.cmd 0x20] } = [.cmd 0x20]
    ∧ debugFreeEvents { heldAt .uSstep 1 with host := [.cmd 0x10] } = []
    ∧ debugFreeEvents { heldAt .uSstep 1 with host := [.rst (some 1)] } = [.rst none]
    ∧ debugFreeEvents { at' .mEval with host := [.rst (some 1)] } = [.rst (some 1)] := by decide

/-- The fixture's instructions cost 4 cycles or more (95 section 2). -/
theorem witness_CostsPositive : CostsPositive start.params := by
  intro opcode c m
  show 1 ≤ costOf (fixtureDecode opcode c).base (fixtureDecode opcode c).added
  simp only [fixtureDecode, costOf]
  split
  · decide
  · split <;> decide

theorem witness_FrameEndsWithinItsBudget : Legal (at' .fStart) ∧ (at' .fStart).params.wellFormed = true ∧ lineFits (at' .fStart)
    ∧ (at' .fStart).seq = .fStart ∧ (at' .fStart).host = [] ∧ (at' .fStart).paused = false ∧ (at' .fStart).flags = 0 := by
  refine ⟨⟨by decide, rfl, ?_, ⟨by decide, by decide, fun h => (nomatch h), by decide, by decide⟩, ?_⟩, by decide, by decide,
    rfl, rfl, rfl, rfl⟩
  · simp only [PauseLegal]; decide
  · simp only [CounterLegal]; decide

end Sys2Proof.Tests
end

section
/-!
PROOFS. What the machine is and when it steps (00_scope.md): the step with a quiet host (00 R8), and the parameters, which
no operation and no move of the host's writes (00 R4).
-/

namespace Sys2Proof.Machine

/-! ## What a quiet host leaves to the sequencer (00 R8) -/

/-- An exhausted host leaves the move to the micro-operation at `seq`. -/
theorem nextMove_exhausted (s : State) (h : s.host = []) : nextMove s = .run (uopInstr s.seq) s := by
  simp [nextMove, h]

/-- A quiet event leaves the move to the sequencer, the event used up. -/
theorem nextMove_quiet (s : State) (rest : List HostEvent) (h : s.host = .quiet :: rest) :
    nextMove s = performUop rest s := by
  simp [nextMove, h]

/-! ## No shared operation writes the parameters (00 R4) -/

@[simp] theorem takeInterrupt_params (s : State) : (takeInterrupt s).params = s.params := by
  rw [takeInterrupt_frame]

@[simp] theorem dumpOnArrival_params (s : State) : (dumpOnArrival s).params = s.params := by
  rw [dumpOnArrival_frame]

@[simp] theorem pauseAt_params (p next : Uop) (flag : Bool) (s : State) : (pauseAt p flag next s).params = s.params := by
  rcases pauseAt_cases p next flag s with ⟨_, e⟩ | ⟨_, _, e⟩ | ⟨_, _, e⟩ <;> rw [e]

@[simp] theorem beginStep_params (s : State) : (beginStep s).params = s.params := by
  unfold beginStep
  split <;> rfl

@[simp] theorem beginFrame_params (s : State) : (beginFrame s).params = s.params := by
  unfold beginFrame
  split <;> rfl

@[simp] theorem releasePause_params (s : State) : (releasePause s).params = s.params := by
  unfold releasePause
  split <;> rfl

@[simp] theorem putFlags_params (arg : BitVec 4) (s : State) : (putFlags arg s).params = s.params := by
  unfold putFlags
  split <;> rfl

@[simp] theorem commandEffect_params (i : Instr) (s : State) : (commandEffect i s).params = s.params := by
  cases i with
  | step => exact beginStep_params s
  | frame => exact beginFrame_params s
  | cont => exact releasePause_params s
  | setflags arg => exact putFlags_params arg s
  | _ => rfl

@[simp] theorem applyReset_params (inside : Option Nat) (s : State) : (applyReset inside s).params = s.params := by
  cases inside <;> rfl

/-! ## Nor does an operation or a host's move -/

/-- `IDLE` runs the command presented to it or nothing (45 R256). -/
theorem execIdle_params (s t : State) (h : execIdle s = .next t) : t.params = s.params := by
  unfold execIdle at h
  split at h <;> cases h
  · exact commandEffect_params _ _
  · rfl

/-- Every operation keeps the parameters: those that branch through the shared operation they call, the others by the
fields they write. -/
theorem exec_params (i : Instr) (s t : State) (h : exec i s = .next t) : t.params = s.params := by
  cases i with
  | step => cases h; exact beginStep_params s
  | frame => cases h; exact beginFrame_params s
  | cont => cases h; exact releasePause_params s
  | setflags arg => cases h; exact putFlags_params arg s
  | idle => exact execIdle_params s t h
  | uIrq => cases h; exact takeInterrupt_params s
  | uSstep => cases h; exact (pauseAt_params _ _ _ _).trans (dumpOnArrival_params s)
  | lPause => cases h; exact pauseAt_params _ _ _ s
  | fPause => cases h; exact pauseAt_params _ _ _ s
  | _ => cases h; rfl

/-- The operation of a move runs under the machine's own parameters. -/
theorem nextMove_run_params (s s' : State) (i : Instr) (h : nextMove s = .run i s') : s'.params = s.params := by
  obtain ⟨rest, rfl, _⟩ := nextMove_run_cases s s' i h
  rfl

/-- A move of the host's keeps the parameters, a reset included (70 R310). -/
theorem nextMove_host_params (s t : State) (h : nextMove s = .host t) : t.params = s.params := by
  rcases nextMove_host_cases s t h with ⟨_, _, _, rfl⟩ | ⟨_, _, _, rfl⟩ | ⟨_, _, _, rfl⟩ | ⟨_, _, _, _, owned⟩
  · rfl
  · exact applyReset_params _ _
  · rfl
  · rcases owned with ⟨_, rfl⟩ | ⟨_, _, _, rfl⟩ | ⟨_, _, rfl⟩ | ⟨_, _, rfl⟩ | ⟨_, _, rfl⟩ | ⟨_, _, rfl⟩ <;> rfl

end Sys2Proof.Machine

namespace Sys2Proof.Proofs

open Sys2Proof.Machine

/-- Settles O56: a step is an operation run under the machine's parameters or a host's move, and only well-formed
parameters step. -/
theorem stepKeepsTheParameters : Obligations.StepKeepsTheParameters := by
  intro s t h
  obtain ⟨wellFormed, ⟨i, s', move, ran⟩ | move⟩ := step_cases s t h
  · exact ⟨(exec_params i s' t ran).trans (nextMove_run_params s s' i move), wellFormed⟩
  · exact ⟨nextMove_host_params s t move, wellFormed⟩

/-- Settles O5: by the host's list, and for a quiet event by whether the sequencer is in IDLE. -/
theorem stepRunsTheMicroOperationAtSeq : Obligations.StepRunsTheMicroOperationAtSeq := by
  intro s wellFormed
  refine ⟨fun exhausted => step_run s s _ wellFormed (nextMove_exhausted s exhausted), fun rest quiet => ?_⟩
  have move := nextMove_quiet s rest quiet
  rcases performUop_cases rest s with ⟨idle, performed⟩ | ⟨busy, performed⟩
  · exact ⟨fun busy => absurd idle busy, fun _ => step_host s _ wellFormed (move.trans performed)⟩
  · exact ⟨fun _ => step_run s _ _ wellFormed (move.trans performed), fun idle => absurd idle busy⟩

end Sys2Proof.Proofs
end

section
/-!
PROOFS. The registers of the block over one step (10_state.md): the two running counters (10 R21, R22), the reset state
(10 R47), and the invariant of the machine, which every operation and every move of the host's keeps.
-/

namespace Sys2Proof.Machine

/-! ## What the shared operations and the commands write -/

/-- A pause point writes `paused` and `seq` alone (45 R253). -/
theorem pauseAt_frame (p next : Uop) (flag : Bool) (s : State) :
    pauseAt p flag next s
      = { s with paused := (pauseAt p flag next s).paused, seq := (pauseAt p flag next s).seq } := by
  rcases pauseAt_cases p next flag s with ⟨_, e⟩ | ⟨_, _, e⟩ | ⟨_, _, e⟩ <;> rw [e]

/-- A command word writes `in_frame`, `seq`, `paused` and `flags` alone (41 R130, 43 R190, 45 R250 to R252). -/
theorem commandEffect_frame (i : Instr) (s : State) :
    commandEffect i s
      = { s with
          inFrame := (commandEffect i s).inFrame
          seq := (commandEffect i s).seq
          paused := (commandEffect i s).paused
          flags := (commandEffect i s).flags } := by
  cases i with
  | step => simp only [commandEffect, beginStep]; split <;> rfl
  | frame => simp only [commandEffect, beginFrame]; split <;> rfl
  | cont => simp only [commandEffect, releasePause]; split <;> rfl
  | setflags arg => simp only [commandEffect, putFlags]; split <;> rfl
  | _ => rfl

/-- `exec` of a host command is its effect (30 R92, 45 R256). -/
theorem exec_command (i : Instr) (s : State) (command : instrUop i = none) : exec i s = .next (commandEffect i s) := by
  cases i with
  | nop | step | frame | cont | setflags => rfl
  | _ => cases command

/-- Every command word decodes to a host command (30 R108). -/
theorem instrUop_decodeCmd : ∀ w : Byte, instrUop (decodeCmd w) = none := by decide

/-- `IDLE` takes the word presented, with the host's event used up, or changes nothing (45 R256). -/
theorem execIdle_cases (s t : State) (h : execIdle s = .next t) :
    (∃ w rest, t = commandEffect (decodeCmd w) { s with host := rest }) ∨ t = s := by
  unfold execIdle at h
  split at h <;> cases h
  · exact .inl ⟨_, _, rfl⟩
  · exact .inr rfl

/-! ## The running counters (10 R21, R22) -/

/-- Neither `steps_executed` nor `total_cycles` moved. -/
def CountersStand (s t : State) : Prop := t.stepsExecuted = s.stepsExecuted ∧ t.totalCycles = s.totalCycles

theorem takeInterrupt_countersStand (s : State) : CountersStand s (takeInterrupt s) := by
  rw [takeInterrupt_frame]; exact ⟨rfl, rfl⟩

theorem dumpOnArrival_countersStand (s : State) : CountersStand s (dumpOnArrival s) := by
  rw [dumpOnArrival_frame]; exact ⟨rfl, rfl⟩

theorem pauseAt_countersStand (p next : Uop) (flag : Bool) (s : State) : CountersStand s (pauseAt p flag next s) := by
  rw [pauseAt_frame]; exact ⟨rfl, rfl⟩

theorem commandEffect_countersStand (i : Instr) (s : State) : CountersStand s (commandEffect i s) := by
  rw [commandEffect_frame]; exact ⟨rfl, rfl⟩

theorem CountersStand.trans {s t u : State} (first : CountersStand s t) (second : CountersStand t u) : CountersStand s u :=
  ⟨second.1.trans first.1, second.2.trans first.2⟩

theorem execIdle_countersStand (s t : State) (h : execIdle s = .next t) : CountersStand s t := by
  rcases execIdle_cases s t h with ⟨w, rest, rfl⟩ | rfl
  · exact commandEffect_countersStand (decodeCmd w) { s with host := rest }
  · exact ⟨rfl, rfl⟩

/-- Every operation but `U_ACC` and `U_RETIRE` leaves both counters as they are. -/
theorem exec_countersStand (i : Instr) (s t : State) (h : exec i s = .next t) (notAcc : i ≠ .uAcc)
    (notRetire : i ≠ .uRetire) : CountersStand s t := by
  cases i with
  | uAcc => exact absurd rfl notAcc
  | uRetire => exact absurd rfl notRetire
  | step => cases h; exact commandEffect_countersStand .step s
  | frame => cases h; exact commandEffect_countersStand .frame s
  | cont => cases h; exact commandEffect_countersStand .cont s
  | setflags arg => cases h; exact commandEffect_countersStand (.setflags arg) s
  | idle => exact execIdle_countersStand s t h
  | uIrq => cases h; exact takeInterrupt_countersStand s
  | uSstep => cases h; exact (dumpOnArrival_countersStand s).trans (pauseAt_countersStand _ _ _ _)
  | lPause => cases h; exact pauseAt_countersStand _ _ _ s
  | fPause => cases h; exact pauseAt_countersStand _ _ _ s
  | _ => cases h; exact ⟨rfl, rfl⟩

/-! ## What the invariant does not speak of -/

/-- The invariant speaks of the fields named in 10 R23, R25, R28 and R30 and of the form of the space: any canonical space and
any value of the other fields will do. -/
theorem Legal.elsewhere {s : State} (legal : Legal s) {ram : Memory} (memory : Memory.wf ram)
    {stepsExecuted totalCycles : Nat} {flags : BitVec 4} {ir : Descriptor} {base : Byte} {cpu : Cpu} {timer input ppu : PrivateState}
    {controller : ControllerState} {host : List HostEvent} {dumps : List Dump} {freeCount : Nat} :
    Legal { s with
      stepsExecuted := stepsExecuted, totalCycles := totalCycles, flags := flags, ir := ir, base := base, ram := ram
      cpu := cpu, timer := timer, input := input, ppu := ppu, controller := controller, host := host, dumps := dumps
      freeCount := freeCount } :=
  ⟨memory, legal.modes, legal.pause, legal.frame, legal.counter⟩

/-- An observation makes both modes the same (42 R170). -/
theorem Legal.observe {s : State} (legal : Legal s) (m : Mode) : Legal { s with currentMode := m, previousMode := m } :=
  ⟨legal.memory, rfl, legal.pause, legal.frame, legal.counter⟩

/-! ## The pause part (10 R30) -/

/-- The positions at which `paused` may be 1 (10 R30, 60 R271). -/
abbrev pausePositions : List Uop := [.uSstep, .lPause, .fPause, .fatal]

/-- Where the block is not paused, only FATAL is barred. -/
theorem PauseLegal.of_running {s : State} (running : s.paused = false) (alive : s.seq ≠ .fatal) : PauseLegal s :=
  ⟨fun paused => absurd (running.symm.trans paused) Bool.false_ne_true, fun fatal => absurd fatal alive⟩

/-- Away from the pause points and FATAL the block is not paused. -/
theorem PauseLegal.running {s : State} (pause : PauseLegal s) (away : s.seq ∉ pausePositions) :
    s.paused = false :=
  Bool.eq_false_iff.mpr fun paused => away (pause.1 paused).2

/-- Where `paused` is legal, a block that is not held is not paused: the debug instrumentation is there. -/
theorem PauseLegal.running_of_not_held {s : State} (pause : PauseLegal s) (free : held s = false) : s.paused = false := by
  refine Bool.eq_false_iff.mpr fun paused => ?_
  simp [held, paused, (pause.1 paused).1] at free

/-- `held` is `paused` behind the debug instrumentation (45 R260). -/
theorem paused_of_held {s : State} (h : held s = true) : s.paused = true := (Bool.and_eq_true_iff.mp h).2

/-- A flag that is live needs the debug instrumentation (45 R260). -/
theorem hasDebug_of_liveFlags {s : State} {i : Nat} (live : (liveFlags s).getLsbD i = true) : s.params.hasDebug = true := by
  unfold liveFlags at live
  split at live
  · assumption
  · simp at live

/-! ## The frame part (10 R28) and the counter part (10 R23), position by position -/

/-- Outside a frame nothing is asked of `line`, `phase` and the scanline-local counter (10 R23, R28). -/
theorem Legal.outsideFrame {s : State} (memory : Memory.wf s.ram) (modes : ModesAgree s) (pause : PauseLegal s)
    (outside : s.inFrame = false) (position : frameOnly s.seq = false) : Legal s := by
  refine ⟨memory, modes, pause, ⟨fun _ => outside, ?_, ?_, ?_, ?_⟩, ?_⟩
  · simp [position]
  · simp [outside]
  · intro visible
    simp only [List.mem_cons, List.not_mem_nil, or_false] at visible
    rcases visible with e | e | e <;> simp [e, frameOnly] at position
  · intro ended
    simp only [List.mem_cons, List.not_mem_nil, or_false] at ended
    rcases ended with e | e <;> simp [e, frameOnly] at position
  · simp [CounterLegal, outside]

/-- Inside a frame and before its last two positions, only `line` and, at three positions, the phase are asked (43 R194 to
R198). -/
theorem FrameLegal.onLine {s : State} (inside : s.inFrame = true) (line : LineLegal s)
    (position : s.seq ∉ [Uop.idle, .fStart, .fPause, .fEnd])
    (visible : s.seq ∈ [Uop.lCommit, .lPause, .vEntry] → s.phase = .visible) : FrameLegal s := by
  simp only [List.mem_cons, List.not_mem_nil, or_false, not_or] at position
  obtain ⟨notIdle, notStart, notPause, notEnd⟩ := position
  exact ⟨by simp [notIdle, notStart], fun _ => inside, fun _ => line, visible, by simp [notPause, notEnd]⟩

/-- `line` is asked no more at `v` than at `u` (43 R198). -/
abbrev lineAsksNoMore (u v : Uop) : Prop :=
  (v = .vEntry ↔ u = .vEntry) ∧ (v ≠ .fPause ∧ v ≠ .fEnd ∧ v ≠ .fatal → u ≠ .fPause ∧ u ≠ .fEnd ∧ u ≠ .fatal)

/-- The positions before the cost of an instruction is added (10 R23). -/
abbrev beforeCost : List Uop := [.uIrq, .uClrx, .uFetch, .uSstep, .uAcc]

/-- The positions from the addition of a cost to the next line (10 R23). -/
abbrev afterCost : List Uop :=
  [.uTimer, .uInput, .uIme, .uExec, .uDma, .uRetire, .mEval, .lTest, .lCommit, .lInc, .lPause, .lNext, .vEntry, .fPause,
    .fEnd]

/-- The positions after the loop of a line is left (43 R203). -/
abbrev loopLeft : List Uop := [.lCommit, .lInc, .lPause, .lNext, .vEntry, .fPause, .fEnd]

/-- The scanline-local counter is asked no more at `v` than at `u` (43 R203). -/
abbrev counterAsksNoMore (u v : Uop) : Prop :=
  (v ∈ beforeCost → u ∈ beforeCost) ∧ (v ∈ afterCost → u ∈ afterCost) ∧ (v ∈ loopLeft → u ∈ loopLeft)

/-- `in_frame`, `phase` and `line` are asked no more at `v` than at `u` (10 R28). -/
abbrev frameAsksNoMore (u v : Uop) : Prop :=
  (v = .idle ∨ v = .fStart → u = .idle ∨ u = .fStart)
    ∧ (frameOnly v = true → frameOnly u = true)
    ∧ (v ∈ [Uop.lCommit, .lPause, .vEntry] → u ∈ [Uop.lCommit, .lPause, .vEntry])
    ∧ (v ∈ [Uop.fPause, .fEnd] → u ∈ [Uop.fPause, .fEnd])
    ∧ lineAsksNoMore u v

theorem LineLegal.goto {s : State} (line : LineLegal s) {v : Uop} (fits : lineAsksNoMore s.seq v) :
    LineLegal (goto v s) := by
  obtain ⟨atEntry, atEnd⟩ := fits
  unfold LineLegal at line ⊢
  cases phase : s.phase with
  | visible => simpa [phase, atEntry] using line
  | tail =>
    simp only [phase, goto_phase] at line ⊢
    intro fit
    obtain ⟨low, high, below⟩ := line fit
    exact ⟨low, high, fun going => below (atEnd going)⟩

/-- The counter's part of the invariant follows the sequencer to a position that asks no more. -/
theorem CounterLegal.goto {s : State} (counter : CounterLegal s) {v : Uop} (fits : counterAsksNoMore s.seq v) :
    CounterLegal (goto v s) := by
  intro inside
  obtain ⟨before, after, left⟩ := counter inside
  exact ⟨fun h => before (fits.1 h), fun h => after (fits.2.1 h), fun h => left (fits.2.2 h)⟩

/-- Below the budget before a cost is added (43 R203). -/
theorem CounterLegal.below {s : State} (counter : CounterLegal s) (inside : s.inFrame = true) (position : s.seq ∈ beforeCost) :
    s.scanlineCycleCounter < s.params.scanlineCycleBudget := by
  obtain ⟨below, _, _⟩ := counter inside
  exact below position

/-- Above the budget by less than the cost after it is added (43 R203). -/
theorem CounterLegal.bounded {s : State} (counter : CounterLegal s) (inside : s.inFrame = true)
    (position : s.seq ∈ afterCost) : s.scanlineCycleCounter < s.params.scanlineCycleBudget + s.cost := by
  obtain ⟨_, bounded, _⟩ := counter inside
  exact bounded position

theorem FrameLegal.goto {s : State} (frame : FrameLegal s) {v : Uop} (fits : frameAsksNoMore s.seq v) :
    FrameLegal (goto v s) := by
  obtain ⟨outside, inside, line, visible, ended⟩ := frame
  obtain ⟨fitsOutside, fitsInside, fitsVisible, fitsEnded, fitsLine⟩ := fits
  exact ⟨fun h => outside (fitsOutside h), fun h => inside (fitsInside h), fun h => (line h).goto fitsLine,
    fun h => visible (fitsVisible h), fun h => ended (fitsEnded h)⟩

/-- No part of the invariant asks more at `v` than at `u`. -/
abbrev asksNoMore (u v : Uop) : Prop := frameAsksNoMore u v ∧ counterAsksNoMore u v

/-- A sequencer position that asks no more than the present one keeps the invariant, where its `paused` is legal. -/
theorem Legal.reposition {s : State} (legal : Legal s) {v : Uop} {p : Bool} (fits : asksNoMore s.seq v)
    (pause : PauseLegal { s with paused := p, seq := v }) : Legal { s with paused := p, seq := v } :=
  ⟨legal.memory, legal.modes, pause, legal.frame.goto fits.1, legal.counter.goto fits.2⟩

/-- Away from the pause points and FATAL the sequencer may pass on to any position that asks no more. -/
theorem Legal.advance {s : State} (legal : Legal s) {u v : Uop} (here : s.seq = u)
    (passes : u ∉ pausePositions ∧ v ≠ .fatal ∧ asksNoMore u v) : Legal (goto v s) := by
  subst here
  obtain ⟨away, alive, fits⟩ := passes
  exact legal.reposition fits (.of_running (legal.pause.running away) alive)

/-- A pause point, whether it is held, stops or falls through (45 R253). -/
theorem Legal.pauseAt {s : State} (legal : Legal s) {p next : Uop} {flag : Bool} (here : s.seq = p)
    (live : flag = true → s.params.hasDebug = true)
    (passes : p ∈ pausePositions ∧ next ≠ .fatal ∧ asksNoMore p next) :
    Legal (pauseAt p flag next s) := by
  subst here
  obtain ⟨point, alive, fits⟩ := passes
  rcases pauseAt_cases s.seq next flag s with ⟨_, e⟩ | ⟨_, stops, e⟩ | ⟨free, _, e⟩ <;> rw [e]
  · exact legal
  · exact ⟨legal.memory, legal.modes, ⟨fun _ => ⟨live stops, point⟩, fun _ => rfl⟩, legal.frame, legal.counter⟩
  · exact legal.reposition fits (.of_running (legal.pause.running_of_not_held free) alive)

/-- Inside a frame the invariant gives the position's line. -/
theorem Legal.line {s : State} (legal : Legal s) (inside : s.inFrame = true) : LineLegal s := by
  obtain ⟨_, _, line, _, _⟩ := legal.frame
  exact line inside

/-- The positions of a frame's own micro-operations are inside a frame (43 R191, R202). -/
theorem Legal.inFrame {s : State} (legal : Legal s) (position : frameOnly s.seq = true) : s.inFrame = true := by
  obtain ⟨_, inside, _, _, _⟩ := legal.frame
  exact inside position

/-- At `V_ENTRY` the visible lines are over (43 R198). -/
theorem Legal.line_at_vEntry {s : State} (legal : Legal s) (here : s.seq = .vEntry) : s.line.toNat = visibleLines := by
  obtain ⟨_, _, _, visible, _⟩ := legal.frame
  simpa [LineLegal, here, visible (by simp [here])] using legal.line (legal.inFrame (by rw [here]; rfl))

/-! ## The host commands keep the invariant -/

/-- A block ready for STEP or FRAME is in IDLE (30 R93). -/
theorem idle_of_ready {s : State} {i : Instr} (ready : commandReady s i = true) (held : takenWhilePaused i = false) :
    s.seq = .idle := by
  refine Decidable.byContradiction fun busy => ?_
  simp [commandReady, busy, held] at ready

/-- The successor of each of the three pause points asks no more than the point itself (45 R253). -/
theorem asksNoMore_pauseSuccessor :
    ∀ u ∈ [Uop.uSstep, .lPause, .fPause], asksNoMore u (pauseSuccessor u) ∧ pauseSuccessor u ≠ .fatal := by decide

theorem beginStep_legal {s : State} (legal : Legal s) : Legal (beginStep s) := by
  unfold beginStep
  split
  · rename_i ready
    have idle := idle_of_ready ready rfl
    exact .outsideFrame legal.memory legal.modes (.of_running (legal.pause.running (by simp [idle])) (by simp)) rfl rfl
  · exact legal

theorem beginFrame_legal {s : State} (legal : Legal s) : Legal (beginFrame s) := by
  unfold beginFrame
  split
  · rename_i ready
    exact legal.advance (idle_of_ready ready rfl) (by decide)
  · exact legal

/-- A block ready for CONT and held is at one of the three pause points (30 R93, 10 R30). -/
theorem pausePoint_of_ready {s : State} (legal : Legal s) (ready : commandReady s .cont = true) (paused : s.paused = true) :
    s.seq ∈ [Uop.uSstep, .lPause, .fPause] := by
  have notFatal : s.seq ≠ .fatal := fun fatal => by simp [commandReady, fatal] at ready
  simpa [notFatal] using (legal.pause.1 paused).2

theorem releasePause_legal {s : State} (legal : Legal s) : Legal (releasePause s) := by
  unfold releasePause
  split
  · rename_i taken
    obtain ⟨ready, held⟩ := Bool.and_eq_true_iff.mp taken
    obtain ⟨fits, alive⟩ := asksNoMore_pauseSuccessor _ (pausePoint_of_ready legal ready (paused_of_held held))
    exact legal.reposition fits (.of_running rfl alive)
  · exact legal

theorem putFlags_legal {s : State} (legal : Legal s) (arg : BitVec 4) : Legal (putFlags arg s) := by
  unfold putFlags
  split
  · exact legal.elsewhere legal.memory
  · exact legal

theorem commandEffect_legal (i : Instr) {s : State} (legal : Legal s) : Legal (commandEffect i s) := by
  cases i with
  | step => exact beginStep_legal legal
  | frame => exact beginFrame_legal legal
  | cont => exact releasePause_legal legal
  | setflags arg => exact putFlags_legal legal arg
  | _ => exact legal

/-! ## What well-formed parameters give (00 R5) -/

/-- A line has a cycle. -/
theorem budget_pos {p : Params} (wellFormed : p.wellFormed = true) : 0 < p.scanlineCycleBudget := by
  simp only [Params.wellFormed, Bool.and_eq_true, decide_eq_true_eq] at wellFormed
  omega

/-- A frame has a tail. -/
theorem vblankLines_pos {p : Params} (wellFormed : p.wellFormed = true) : 0 < p.vblankLines := by
  simp only [Params.wellFormed, Bool.and_eq_true, decide_eq_true_eq] at wellFormed
  omega

/-! ## The micro-operations that branch or enter a line keep the invariant -/

/-- `U_ACC`: below the budget before the cost is added, above it by less than the cost after (43 R203). -/
theorem execUAcc_legal {s t : State} (legal : Legal s) (here : s.seq = .uAcc) (h : execUAcc s = .next t) : Legal t := by
  cases h
  refine ⟨legal.memory, legal.modes, .of_running (legal.pause.running (by simp [here])) (by simp),
    legal.frame.goto (by rw [here]; decide), fun inside => ?_⟩
  have below := legal.counter.below inside (by simp [here])
  exact ⟨by simp, fun _ => Nat.add_lt_add_right below _, by simp⟩

/-- `U_RETIRE`: inside a frame on to the observation, else back to IDLE (43 R194). -/
theorem execURetire_legal {s t : State} (legal : Legal s) (here : s.seq = .uRetire) (h : execURetire s = .next t) :
    Legal t := by
  cases h
  suffices moved : Legal (goto (if s.inFrame = true then .mEval else .idle) s) from moved.elsewhere legal.memory
  have running := legal.pause.running (by simp [here])
  cases inside : s.inFrame with
  | false => exact .outsideFrame legal.memory legal.modes (.of_running running (by simp)) inside rfl
  | true =>
    exact ⟨legal.memory, legal.modes, .of_running running (by simp),
      .onLine inside ((legal.line inside).goto (by rw [here]; decide)) (by simp) (by simp),
      legal.counter.goto (by rw [here]; decide)⟩

/-- `F_START`: line 0 of the visible phase (43 R191). -/
theorem execFStart_legal {s t : State} (legal : Legal s) (here : s.seq = .fStart) (h : execFStart s = .next t) :
    Legal t := by
  cases h
  refine ⟨memWriteAll_wf _ _ legal.memory, legal.modes, .of_running (legal.pause.running (by simp [here])) (by simp),
    .onLine rfl ?_ (by simp) (by simp), fun _ => by simp⟩
  simp [LineLegal, visibleLines]

/-- `L_ENTRY`: the counter starts at 0, below any budget (43 R192). -/
theorem execLEntry_legal {s t : State} (wellFormed : s.params.wellFormed = true) (legal : Legal s) (here : s.seq = .lEntry)
    (h : execLEntry s = .next t) : Legal t := by
  cases h
  have inside := legal.inFrame (by rw [here]; rfl)
  refine ⟨legal.memory, legal.modes, .of_running (legal.pause.running (by simp [here])) (by simp),
    legal.frame.goto (by rw [here]; decide), fun _ => ⟨by simp, fun _ => ?_, by simp⟩⟩
  exact Nat.add_pos_left (budget_pos wellFormed) _

/-- `L_TEST`: the step below the budget, the end of the line from it on (43 R193). -/
theorem execLTest_legal {s t : State} (legal : Legal s) (here : s.seq = .lTest) (h : execLTest s = .next t) : Legal t := by
  cases h
  have inside := legal.inFrame (by rw [here]; rfl)
  have running := legal.pause.running (by simp [here])
  have bounded := legal.counter.bounded inside (by simp [here])
  unfold lineTestTarget
  by_cases below : s.scanlineCycleCounter < s.params.scanlineCycleBudget
  · rw [if_pos below]
    exact ⟨legal.memory, legal.modes, .of_running running (by simp), legal.frame.goto (by rw [here]; decide),
      fun _ => ⟨fun _ => below, by simp, by simp⟩⟩
  · rw [if_neg below]
    have spent := Nat.le_of_not_lt below
    cases phase : s.phase with
    | visible =>
      exact ⟨legal.memory, legal.modes, .of_running running (by simp),
        .onLine inside ((legal.line inside).goto (by rw [here]; decide)) (by simp) fun _ => phase,
        fun _ => ⟨by simp, fun _ => bounded, fun _ => spent⟩⟩
    | tail =>
      exact ⟨legal.memory, legal.modes, .of_running running (by simp), legal.frame.goto (by rw [here]; decide),
        fun _ => ⟨by simp, fun _ => bounded, fun _ => spent⟩⟩

/-- `L_INC`: the pause of a visible line, none in the tail (43 R196). -/
theorem execLInc_legal {s t : State} (legal : Legal s) (here : s.seq = .lInc) (h : execLInc s = .next t) : Legal t := by
  cases h
  have inside := legal.inFrame (by rw [here]; rfl)
  cases phase : s.phase with
  | visible =>
    exact ⟨memWriteAll_wf _ _ legal.memory, legal.modes, .of_running (legal.pause.running (by simp [here])) (by simp),
      .onLine inside ((legal.line inside).goto (by rw [here]; decide)) (by simp) fun _ => phase,
      legal.counter.goto (by rw [here]; decide)⟩
  | tail =>
    exact (legal.advance here (by decide)).elsewhere (memWriteAll_wf _ _ legal.memory)

/-- `V_ENTRY`: the tail begins at line `VISIBLE_LINES`, and a well-formed frame has a tail (43 R199, 00 R5). -/
theorem execVEntry_legal {s t : State} (wellFormed : s.params.wellFormed = true) (legal : Legal s) (here : s.seq = .vEntry)
    (h : execVEntry s = .next t) : Legal t := by
  cases h
  have inside := legal.inFrame (by rw [here]; rfl)
  have line := legal.line_at_vEntry here
  have tail := vblankLines_pos wellFormed
  refine ⟨memWriteAll_wf _ _ legal.memory, legal.modes, .of_running (legal.pause.running (by simp [here])) (by simp),
    .onLine inside (fun _ => ?_) (by simp) (by simp), fun _ => by simp⟩
  simp only [frameLines, storeAll_line, storeAll_params, line]
  omega

/-- Raising `line` below 255 is a sum without wrap (43 R198). -/
theorem raisedLine_toNat {s : State} (below : s.line.toNat < 255) : (raisedLine s).toNat = s.line.toNat + 1 := by
  have not255 : s.line ≠ 255 := fun e => by simp [e] at below
  rw [raisedLine, if_neg not255, BitVec.toNat_add, show (1 : BitVec 8).toNat = 1 from rfl]
  omega

/-- `L_NEXT` in the visible phase: the next line, or `V_ENTRY` at the end of the phase (43 R198). -/
theorem execLNext_visible_legal {s t : State} (legal : Legal s) (here : s.seq = .lNext) (phase : s.phase = .visible)
    (h : execLNext s = .next t) : Legal t := by
  cases h
  have inside := legal.inFrame (by rw [here]; rfl)
  have running := legal.pause.running (by simp [here])
  have below : s.line.toNat < 144 := by simpa [LineLegal, phase, here, visibleLines] using legal.line inside
  have raised := raisedLine_toNat (s := s) (by omega)
  by_cases last : (raisedLine s).toNat = visibleLines
  · have target : nextLineTarget s (raisedLine s) = .vEntry := by simp [nextLineTarget, phase, last]
    rw [target]
    exact ⟨legal.memory, legal.modes, .of_running running (by simp),
      .onLine inside (by simp [LineLegal, phase, last]) (by simp) fun _ => phase,
      legal.counter.goto (by rw [here]; decide)⟩
  · have target : nextLineTarget s (raisedLine s) = .lEntry := by simp [nextLineTarget, phase, last]
    rw [target]
    refine ⟨legal.memory, legal.modes, .of_running running (by simp), .onLine inside ?_ (by simp) (by simp), fun _ => by simp⟩
    simp only [LineLegal, phase, visibleLines, reduceCtorEq, if_false] at last ⊢
    omega

/-- The line raised in a tail that fits 8 bits is a line of the tail or the frame's length (43 R198). -/
theorem raisedLine_in_tail {s : State} (line : LineLegal s) (here : s.seq = .lNext) (phase : s.phase = .tail)
    (fit : lineFits s) : visibleLines ≤ (raisedLine s).toNat ∧ (raisedLine s).toNat ≤ frameLines s := by
  simp only [LineLegal, phase, here] at line
  obtain ⟨low, _, going⟩ := line fit
  have below := going (by decide)
  have raised := raisedLine_toNat (Nat.lt_of_lt_of_le below fit)
  omega

/-- `L_NEXT` in the tail: the next line-equivalent, or `F_PAUSE` at the end of the frame (43 R198). -/
theorem execLNext_tail_legal {s t : State} (legal : Legal s) (here : s.seq = .lNext) (phase : s.phase = .tail)
    (h : execLNext s = .next t) : Legal t := by
  cases h
  have inside := legal.inFrame (by rw [here]; rfl)
  have running := legal.pause.running (by simp [here])
  have raised := raisedLine_in_tail (legal.line inside) here phase
  by_cases last : (raisedLine s).toNat = frameLines s
  · have target : nextLineTarget s (raisedLine s) = .fPause := by
      simp only [frameLines] at last
      simp [nextLineTarget, phase, last]
    rw [target]
    refine ⟨legal.memory, legal.modes, .of_running running (by simp), ⟨by simp, fun _ => inside, fun _ => ?_, by simp,
      fun _ => ⟨phase, last⟩⟩, ?_⟩
    · simp only [LineLegal, phase]
      exact fun fit => ⟨(raised fit).1, (raised fit).2, by simp⟩
    · exact legal.counter.goto (by rw [here]; decide)
  · have target : nextLineTarget s (raisedLine s) = .lEntry := by
      simp only [frameLines] at last
      simp [nextLineTarget, phase, last]
    rw [target]
    refine ⟨legal.memory, legal.modes, .of_running running (by simp), .onLine inside ?_ (by simp) (by simp), fun _ => by simp⟩
    simp only [LineLegal, phase]
    exact fun fit => ⟨(raised fit).1, (raised fit).2, fun _ => Nat.lt_of_le_of_ne (raised fit).2 last⟩

theorem execLNext_legal {s t : State} (legal : Legal s) (here : s.seq = .lNext) (h : execLNext s = .next t) : Legal t := by
  cases phase : s.phase with
  | visible => exact execLNext_visible_legal legal here phase h
  | tail => exact execLNext_tail_legal legal here phase h

/-- `F_END` leaves the frame (43 R202). -/
theorem execFEnd_legal {s t : State} (legal : Legal s) (here : s.seq = .fEnd) (h : execFEnd s = .next t) : Legal t := by
  cases h
  exact .outsideFrame legal.memory legal.modes (.of_running (legal.pause.running (by simp [here])) (by simp)) rfl rfl

/-! ## Every operation and every move of the host's keeps the invariant -/

theorem execIdle_legal {s t : State} (legal : Legal s) (h : execIdle s = .next t) : Legal t := by
  rcases execIdle_cases s t h with ⟨w, rest, rfl⟩ | rfl
  · exact commandEffect_legal _ (legal.elsewhere legal.memory)
  · exact legal

/-- Under well-formed parameters the micro-operation at `seq` keeps the invariant. -/
theorem exec_uop_legal {s t : State} (wellFormed : s.params.wellFormed = true) (legal : Legal s) (u : Uop) (here : s.seq = u)
    (h : exec (uopInstr u) s = .next t) : Legal t := by
  have stored (ws : List Write) := memWriteAll_wf s.ram ws legal.memory
  cases u with
  | idle => exact execIdle_legal legal h
  | uIrq =>
    cases h
    rw [takeInterrupt_frame]
    exact (legal.advance here (v := .uClrx) (by decide)).elsewhere (stored _)
  | uClrx => cases h; exact (legal.advance here (v := .uFetch) (by decide)).elsewhere legal.memory
  | uFetch => cases h; exact (legal.advance here (v := .uSstep) (by decide)).elsewhere legal.memory
  | uIme => cases h; exact (legal.advance here (v := .uExec) (by decide)).elsewhere legal.memory
  | uTimer | uInput | uExec | uDma | lCommit =>
    cases h
    refine (legal.advance here ?_).elsewhere (stored _)
    decide
  | mEval =>
    cases h
    exact ((legal.advance here (v := .lTest) (by decide)).observe (observedMode s)).elsewhere (stored _)
  | uSstep =>
    cases h
    rw [dumpOnArrival_frame]
    exact (legal.elsewhere legal.memory).pauseAt here hasDebug_of_liveFlags (by decide)
  | lPause | fPause =>
    cases h
    exact legal.pauseAt here hasDebug_of_liveFlags (by decide)
  | uAcc => exact execUAcc_legal legal here h
  | uRetire => exact execURetire_legal legal here h
  | fStart => exact execFStart_legal legal here h
  | lEntry => exact execLEntry_legal wellFormed legal here h
  | lTest => exact execLTest_legal legal here h
  | lInc => exact execLInc_legal legal here h
  | lNext => exact execLNext_legal legal here h
  | vEntry => exact execVEntry_legal wellFormed legal here h
  | fEnd => exact execFEnd_legal legal here h
  | fatal => cases h; exact legal

/-- The operation of a move keeps the invariant: a taken command or the micro-operation at `seq`. -/
theorem nextMove_run_legal {s s' t : State} {i : Instr} (wellFormed : s.params.wellFormed = true) (legal : Legal s)
    (move : nextMove s = .run i s') (ran : exec i s' = .next t) : Legal t := by
  obtain ⟨rest, rfl, ⟨rfl, _⟩ | ⟨w, rfl, _, _⟩⟩ := nextMove_run_cases s s' i move
  all_goals have handed : Legal { s with host := rest } := legal.elsewhere legal.memory
  · exact exec_uop_legal (s := { s with host := rest }) wellFormed handed s.seq rfl ran
  · rw [exec_command _ _ (instrUop_decodeCmd w)] at ran
    cases ran
    exact commandEffect_legal _ handed

/-- The registers at their reset values meet the invariant over any canonical space (10 R47, 70 R312). -/
theorem resetRegisters_legal {s : State} (memory : Memory.wf s.ram) : Legal (resetRegisters s) :=
  .outsideFrame memory rfl (.of_running rfl (by simp [resetRegisters])) rfl rfl

/-- A reset keeps the invariant, inside a micro-operation too (70 R310). -/
theorem applyReset_legal (inside : Option Nat) {s : State} (memory : Memory.wf s.ram) : Legal (applyReset inside s) := by
  cases inside with
  | none => exact resetRegisters_legal memory
  | some k => exact resetRegisters_legal (memWriteAll_wf s.ram _ memory)

/-- FATAL asks no more than any position at which `paused` may be 1. -/
theorem asksNoMore_fatal {u : Uop} (point : u ∈ pausePositions) : asksNoMore u .fatal := by
  have frame : ∀ u ∈ pausePositions, frameAsksNoMore u .fatal := by decide
  exact ⟨frame u point, by simp, by simp, by simp⟩

/-- A continue channel that fails at a hold leads to FATAL, still paused (60 R271). -/
theorem failedContinue_legal {s : State} (legal : Legal s) (paused : s.paused = true) : Legal { s with seq := .fatal } := by
  obtain ⟨hasDebug, point⟩ := legal.pause.1 paused
  exact legal.reposition (asksNoMore_fatal point) ⟨fun _ => ⟨hasDebug, by simp⟩, fun _ => paused⟩

/-- Every move of the host's keeps the invariant. -/
theorem nextMove_host_legal {s t : State} (legal : Legal s) (move : nextMove s = .host t) : Legal t := by
  rcases nextMove_host_cases s t move with ⟨_, _, held, rfl⟩ | ⟨_, _, _, rfl⟩ | ⟨_, _, _, rfl⟩ | ⟨_, _, _, _, owned⟩
  · exact (failedContinue_legal legal (paused_of_held held)).elsewhere legal.memory
  · exact applyReset_legal _ legal.memory
  · exact legal.elsewhere legal.memory
  · rcases owned with ⟨_, rfl⟩ | ⟨a, v, _, rfl⟩ | ⟨_, _, rfl⟩ | ⟨_, _, rfl⟩ | ⟨_, _, rfl⟩ | ⟨_, _, rfl⟩
    · exact legal.elsewhere legal.memory
    · exact legal.elsewhere (memWrite_wf _ a v legal.memory)
    all_goals exact legal.elsewhere legal.memory

end Sys2Proof.Machine

namespace Sys2Proof.Proofs

open Sys2Proof.Machine

/-- Settles O57: a step runs an operation or is a move of the host's, and each keeps the invariant. -/
theorem stepKeepsTheInvariant : Obligations.StepKeepsTheInvariant := by
  intro s t legal h
  obtain ⟨wellFormed, ⟨i, s', move, ran⟩ | move⟩ := step_cases s t h
  · exact nextMove_run_legal wellFormed legal move ran
  · exact nextMove_host_legal legal move

/-- Settles O55: the two operations add what the statement says, and every other one leaves both counters. -/
theorem countersOnlyGrowWhereTheyMust : Obligations.CountersOnlyGrowWhereTheyMust := by
  intro i s t h
  by_cases acc : i = .uAcc
  · subst acc; cases h; exact ⟨rfl, rfl⟩
  by_cases retire : i = .uRetire
  · subst retire; cases h; exact ⟨rfl, rfl⟩
  obtain ⟨steps, cycles⟩ := exec_countersStand i s t h acc retire
  exact ⟨by simp [retire, steps], by simp [acc, cycles]⟩

/-- Settles O58: the registers as `State.reset` writes them, and outside a frame the invariant asks nothing more. -/
theorem resetStateIsLegal : Obligations.ResetStateIsLegal :=
  ⟨.outsideFrame reset_memory_wf rfl (.of_running rfl (by decide)) rfl rfl,
    rfl, rfl, rfl, rfl, rfl, rfl, rfl, rfl, rfl, rfl, rfl⟩

end Sys2Proof.Proofs
end

section
/-!
PROOFS. The shared address space (20_memory.md). The complete list of the block's own accesses (20 R63): the operations
outside it leave the space as it was.
-/

namespace Sys2Proof.Machine

@[simp] theorem dumpOnArrival_ram (s : State) : (dumpOnArrival s).ram = s.ram := by
  rw [dumpOnArrival_frame]

@[simp] theorem pauseAt_ram (p next : Uop) (flag : Bool) (s : State) : (pauseAt p flag next s).ram = s.ram := by
  rw [pauseAt_frame]

/-- A host command touches no byte of the space (41 R130, 43 R190, 45 R250 to R252). -/
@[simp] theorem commandEffect_ram (i : Instr) (s : State) : (commandEffect i s).ram = s.ram := by
  rw [commandEffect_frame]

/-- `IDLE` touches no byte, whatever word it takes (45 R256). -/
theorem execIdle_ram (s t : State) (h : execIdle s = .next t) : t.ram = s.ram := by
  rcases execIdle_cases s t h with ⟨w, rest, rfl⟩ | rfl
  · exact commandEffect_ram (decodeCmd w) { s with host := rest }
  · rfl

end Sys2Proof.Machine

namespace Sys2Proof.Proofs

open Sys2Proof.Machine

/-- Settles O54: a host command, `IDLE` and the pause points keep the space by their own lemmas, and the other
micro-operations outside the list write registers alone. -/
theorem noOtherMicroOperationStores : Obligations.NoOtherMicroOperationStores := by
  intro i s t outside h
  cases i with
  | fStart | lInc | vEntry | mEval | uIrq | uTimer | uInput | uExec | uDma | lCommit => exact absurd (by decide) outside
  | nop | step | frame | cont | setflags =>
    rw [exec_command _ _ rfl] at h
    cases h
    exact commandEffect_ram _ s
  | idle => exact execIdle_ram s t h
  | uSstep => cases h; exact (pauseAt_ram _ _ _ _).trans (dumpOnArrival_ram s)
  | lPause | fPause => cases h; exact pauseAt_ram _ _ _ s
  | uClrx | uFetch | uAcc | uIme | uRetire | lEntry | lTest | lNext | fEnd | fatal => cases h; rfl

end Sys2Proof.Proofs
end

section
/-!
PROOFS. The encoding (30_encoding.md): the decoder against the words of the spec's tables (30 R92, R96), the 256 words of the
command port (30 R108), and which words the port takes and what becomes of the others (30 R93, 70 R328).
-/

namespace Sys2Proof.Machine

/-! ## The sequencer's codes (30 R96) -/

/-- The code of a sequencer position, as the encoder's table gives it. -/
def seqCode (u : Uop) : BitVec 5 := BitVec.ofNat 5 (encode (uopInstr u)).2

/-- The sequencer positions in the order of their codes. -/
def seqPositions : List Uop :=
  [.idle, .uIrq, .uClrx, .uFetch, .uSstep, .uAcc, .uTimer, .uInput, .uIme, .uExec, .uDma, .uRetire,
    .mEval, .fStart, .lEntry, .lTest, .lCommit, .lInc, .lPause, .lNext, .vEntry, .fPause, .fEnd, .fatal]

/-- A micro-operation is encoded as its code in 5 bits. -/
theorem encode_uopInstr (u : Uop) : encode (uopInstr u) = (5, (seqCode u).toNat) := by
  cases u <;> rfl

/-- The code of a position decodes to its micro-operation. -/
theorem decodeUop_seqCode (u : Uop) : decodeUop (seqCode u) = .ok (uopInstr u) := by
  cases u <;> rfl

/-- Every value below 24 is the code of a position. -/
theorem exists_seqCode_eq : ∀ c : BitVec 5, c.toNat < 24 → ∃ u ∈ seqPositions, seqCode u = c := by decide

/-- The values from 24 up are refused by name. -/
theorem decodeUop_unused (c : BitVec 5) (unused : 24 ≤ c.toNat) : decodeUop c = .error .unusedSequencerCode := by
  unfold decodeUop
  split
  case h_25 => rfl
  all_goals omega

/-- An operation with a sequencer position is the micro-operation there. -/
theorem eq_uopInstr_of_instrUop {i : Instr} {u : Uop} (h : instrUop i = some u) : i = uopInstr u := by
  cases i <;> cases h <;> rfl

/-! ## The command words (30 R92) -/

/-- SETFLAGS's word is `0x4` and the operand in `cmd[3:0]` (30 R95). -/
theorem decodeCmd_setflags : ∀ arg : BitVec 4, decodeCmd (0x4#4 ++ arg) = .setflags arg := by decide

/-- The word of SETFLAGS is a defined one, and the number of 30 R105. -/
theorem setflagsWord_defined :
    ∀ arg : BitVec 4, commandWordDefined (0x4#4 ++ arg) = true ∧ (0x4#4 ++ arg).toNat = 0x40 + arg.toNat := by decide

/-- A reserved word is a NOP (30 R94). -/
theorem decodeCmd_reserved (w : Byte) (reserved : commandWordDefined w = false) : decodeCmd w = .nop := by
  simp only [commandWordDefined, Bool.or_eq_false_iff, beq_eq_false_iff_ne] at reserved
  obtain ⟨⟨⟨⟨notNop, notStep⟩, notFrame⟩, notCont⟩, notSetflags⟩ := reserved
  simp only [decodeCmd, notNop, notStep, notFrame, notCont, notSetflags, if_false]

/-- The reserved words are 236 of the 256 (30 R94). -/
theorem reservedWords_length :
    ((List.range 256).filter (fun n => !commandWordDefined (BitVec.ofNat 8 n))).length = 236 := by decide +kernel

/-- A command is encoded as a defined word of 8 bits, which the command port reads back. -/
theorem encode_command (i : Instr) (command : instrUop i = none) :
    ∃ w : Byte, encode i = (8, w.toNat) ∧ commandWordDefined w = true ∧ decodeCmd w = i := by
  cases i with
  | nop => exact ⟨0x00, rfl, rfl, rfl⟩
  | step => exact ⟨0x10, rfl, rfl, rfl⟩
  | frame => exact ⟨0x20, rfl, rfl, rfl⟩
  | cont => exact ⟨0x30, rfl, rfl, rfl⟩
  | setflags arg =>
    obtain ⟨defined, number⟩ := setflagsWord_defined arg
    exact ⟨0x4#4 ++ arg, congrArg (Prod.mk 8) number.symm, defined, decodeCmd_setflags arg⟩
  | _ => cases command

/-! ## The table words of the two widths (30 R90) -/

/-- A word of 8 bits is never refused. -/
theorem decodeTableWord_byte (w : Byte) : decodeTableWord 8 w.toNat = some (decodeTableByte w) := by
  have fits := w.isLt
  simp [decodeTableWord, decodeWord, fits]

/-- A word of 5 bits that the sequencer decodes is that micro-operation. -/
theorem decodeTableWord_code {c : BitVec 5} {i : Instr} (decoded : decodeUop c = .ok i) :
    decodeTableWord 5 c.toNat = some i := by
  have fits := c.isLt
  simp [decodeTableWord, decodeWord, fits, decoded]

/-- A defined command word is read as the command port reads it. -/
theorem decodeTableByte_defined (w : Byte) (defined : commandWordDefined w = true) : decodeTableByte w = decodeCmd w := by
  simp [decodeTableByte, defined]

/-- Decoding undoes encoding: a micro-operation through its code, a command through its defined word. -/
theorem decodeTableWord_encode (i : Instr) : decodeTableWord (encode i).1 (encode i).2 = some i := by
  cases position : instrUop i with
  | some u =>
    obtain rfl := eq_uopInstr_of_instrUop position
    rw [encode_uopInstr]
    exact decodeTableWord_code (decodeUop_seqCode u)
  | none =>
    obtain ⟨w, encoded, defined, decoded⟩ := encode_command i position
    rw [encoded, decodeTableWord_byte, decodeTableByte_defined w defined, decoded]

/-! ## Where the port takes a word (30 R93) -/

theorem commandReady_idle {s : State} (idle : s.seq = .idle) (i : Instr) : commandReady s i = true := by
  simp [commandReady, idle]

theorem commandReady_fatal {s : State} (fatal : s.seq = .fatal) (i : Instr) : commandReady s i = false := by
  simp [commandReady, fatal]

/-- Outside IDLE and FATAL it takes what it takes while paused. -/
theorem commandReady_busy {s : State} (busy : s.seq ≠ .idle) (alive : s.seq ≠ .fatal) (i : Instr) :
    commandReady s i = (s.paused && takenWhilePaused i) := by
  simp [commandReady, busy, alive]

theorem commandReady_running {s : State} (busy : s.seq ≠ .idle) (running : s.paused = false) (i : Instr) :
    commandReady s i = false := by
  by_cases fatal : s.seq = .fatal
  · exact commandReady_fatal fatal i
  · simp [commandReady_busy busy fatal, running]

/-- A command other than STEP and FRAME is taken in IDLE and while paused. -/
theorem commandReady_of_open {s : State} (isOpen : s.seq = .idle ∨ s.paused = true ∧ s.seq ≠ .fatal) {i : Instr}
    (taken : takenWhilePaused i = true) : commandReady s i = true := by
  by_cases idle : s.seq = .idle
  · exact commandReady_idle idle i
  · obtain ⟨paused, alive⟩ := isOpen.resolve_left idle
    simp [commandReady_busy idle alive, paused, taken]

/-! ## The move a presented word gives (30 R93, 70 R328) -/

theorem nextMove_cmd_taken {s : State} {w : Byte} {rest : List HostEvent} (h : s.host = .cmd w :: rest)
    (ready : commandReady s (decodeCmd w) = true) : nextMove s = .run (decodeCmd w) { s with host := rest } := by
  simp [nextMove, h, offerCommand, ready]

theorem nextMove_whenReady_taken {s : State} {w : Byte} {rest : List HostEvent} (h : s.host = .whenReady w :: rest)
    (ready : commandReady s (decodeCmd w) = true) : nextMove s = .run (decodeCmd w) { s with host := rest } := by
  simp [nextMove, h, awaitReady, ready]

/-- A word that is not taken is lost: the sequencer performs its micro-operation as behind a quiet event. -/
theorem nextMove_cmd_untaken {s : State} {w : Byte} {rest : List HostEvent} (h : s.host = .cmd w :: rest)
    (untaken : commandReady s (decodeCmd w) = false) : nextMove s = performUop rest s := by
  simp [nextMove, h, offerCommand, untaken]

/-- A host that waits leaves the move to the micro-operation at `seq`, and waits on. -/
theorem nextMove_whenReady_waits {s : State} {w : Byte} {rest : List HostEvent} (h : s.host = .whenReady w :: rest)
    (untaken : commandReady s (decodeCmd w) = false) : nextMove s = .run (uopInstr s.seq) s := by
  simp [nextMove, h, awaitReady, untaken]

/-- A step is fixed by the parameters and the next move. -/
theorem step_eq_of_nextMove {s t : State} (params : s.params = t.params) (move : nextMove s = nextMove t) :
    step s = step t := by
  simp only [step, params, move]

/-! ## Only `IDLE` reads the host's events (30 R93) -/

/-- A state whose host does `events` from now on. -/
def withHost (events : List HostEvent) (s : State) : State := { s with host := events }

theorem takeInterrupt_withHost (events : List HostEvent) (s : State) :
    takeInterrupt (withHost events s) = withHost events (takeInterrupt s) := by
  cases source : dispatchSource s with
  | none => rw [takeInterrupt_none s source, takeInterrupt_none (withHost events s) source]
  | some i => rw [takeInterrupt_some s i source, takeInterrupt_some (withHost events s) i source]; rfl

theorem dumpOnArrival_withHost (events : List HostEvent) (s : State) :
    dumpOnArrival (withHost events s) = withHost events (dumpOnArrival s) := by
  unfold dumpOnArrival
  rw [apply_ite (withHost events)]
  rfl

theorem pauseAt_withHost (p next : Uop) (flag : Bool) (events : List HostEvent) (s : State) :
    pauseAt p flag next (withHost events s) = withHost events (pauseAt p flag next s) := by
  unfold pauseAt
  rw [apply_ite (withHost events), apply_ite (withHost events)]
  rfl

/-- A micro-operation other than `IDLE` does the same whatever the host does next, and leaves the host's events. -/
theorem exec_uop_withHost {u : Uop} (busy : u ≠ .idle) {s t : State} (ran : exec (uopInstr u) s = .next t)
    (events : List HostEvent) : exec (uopInstr u) (withHost events s) = .next (withHost events t) := by
  cases u with
  | idle => exact absurd rfl busy
  | uIrq => cases ran; exact congrArg (Host.Outcome.next ∘ goto .uClrx) (takeInterrupt_withHost events s)
  | uSstep =>
    cases ran
    rw [← pauseAt_withHost, ← dumpOnArrival_withHost]
    rfl
  | lPause | fPause => cases ran; exact congrArg Host.Outcome.next (pauseAt_withHost _ _ _ events s)
  | _ => cases ran; rfl

/-! ## What a taken SETFLAGS writes (45 R251) -/

theorem putFlags_taken {s : State} {arg : BitVec 4} (hasDebug : s.params.hasDebug = true)
    (ready : commandReady s (.setflags arg) = true) : putFlags arg s = { s with flags := arg } := by
  simp [putFlags, ready, hasDebug, flagsOperand]

theorem liveFlags_of_hasDebug {s : State} (hasDebug : s.params.hasDebug = true) : liveFlags s = s.flags := by
  simp [liveFlags, hasDebug]

end Sys2Proof.Machine

namespace Sys2Proof.Proofs

open Sys2Proof.Machine

/-- Settles O1: every operation is well formed, and decoding undoes encoding for each. -/
theorem decodeOfEncodeIsTheInstruction : Obligations.DecodeOfEncodeIsTheInstruction :=
  fun i _ => decodeTableWord_encode i

/-- Settles O8: an untaken `cmd` word gives the move of a quiet event; a waiting host gives the move of an exhausted one, and
the micro-operation run, which is not `IDLE`, leaves the host's events as they are. -/
theorem untakenCommandHasNoEffect : Obligations.UntakenCommandHasNoEffect := by
  intro s w rest untaken
  refine ⟨fun presented => ?_, fun t exhausted stepped => ?_⟩
  · exact step_eq_of_nextMove rfl (nextMove_cmd_untaken presented untaken)
  · have wellFormed := (step_cases s t stepped).1
    have busy : s.seq ≠ .idle := seq_ne_idle_of_not_ready s _ (Bool.eq_false_iff.mp untaken)
    rw [step_run s s _ wellFormed (nextMove_exhausted s exhausted)] at stepped
    have waits := nextMove_whenReady_waits (s := withHost (.whenReady w :: rest) s) rfl untaken
    have runs : step (withHost (.whenReady w :: rest) s) = _ := step_run _ _ _ wellFormed waits
    exact runs.trans (exec_uop_withHost busy stepped _)

/-- Settles O2: the four words of the table, SETFLAGS at every operand, and the reserved words, which are counted. -/
theorem commandDecoderIsTotal : Obligations.CommandDecoderIsTotal :=
  ⟨rfl, rfl, rfl, rfl, decodeCmd_setflags, decodeCmd_reserved, reservedWords_length⟩

/-- Settles O3: each word is the encoding of the operation named, so that decoding gives it back. -/
theorem specWordsDecode : Obligations.SpecWordsDecode :=
  ⟨decodeTableWord_encode (.setflags 0b1010), decodeTableWord_encode .frame, decodeTableWord_encode .uIrq,
    decodeTableWord_encode .uDma, decodeTableWord_encode .mEval, decodeTableWord_encode .vEntry,
    decodeTableWord_encode .idle, decodeTableWord_encode .fatal⟩

/-- Settles O4: the values below 24 are the codes of the positions, and the others are refused. -/
theorem sequencerCodesAreExactly24 : Obligations.SequencerCodesAreExactly24 := by
  refine ⟨decodeUop_seqCode, fun c used => ?_, decodeUop_unused⟩
  obtain ⟨u, -, rfl⟩ := exists_seqCode_eq c used
  exact ⟨u, decodeUop_seqCode u, encode_uopInstr u⟩

/-- Settles O6: both forms of presenting a word give the same move where the block is ready. -/
theorem stepRunsThePresentedCommand : Obligations.StepRunsThePresentedCommand := by
  intro s w rest wellFormed presented ready
  rcases presented with once | waiting
  · exact step_run s _ _ wellFormed (nextMove_cmd_taken once ready)
  · exact step_run s _ _ wellFormed (nextMove_whenReady_taken waiting ready)

/-- Settles O7: by the sequencer's position and the pause. -/
theorem commandsTakenExactlyWhereReady : Obligations.CommandsTakenExactlyWhereReady := by
  intro s w
  refine ⟨fun idle => commandReady_idle idle _, fun busy alive paused => ?_,
    fun busy running => commandReady_running busy running _, fun fatal => commandReady_fatal fatal _⟩
  rw [commandReady_busy busy alive, paused, Bool.true_and]
  exact takenWhilePaused_iff w

/-- Settles O18: SETFLAGS is taken, writes `flags` alone, and the four flags are read from there. -/
theorem setflagsCopiesItsOperand : Obligations.SetflagsCopiesItsOperand := by
  intro s arg hasDebug isOpen
  have taken := putFlags_taken (arg := arg) hasDebug (commandReady_of_open isOpen rfl)
  have live : liveFlags { s with flags := arg } = arg := liveFlags_of_hasDebug hasDebug
  refine ⟨{ s with flags := arg }, congrArg Host.Outcome.next taken, rfl, ?_, ?_, ?_, ?_, rfl⟩
  · rw [stepByStep, live]
  · rw [lineByLine, live]
  · rw [screenByScreen, live]
  · rw [verboseLog, live]

end Sys2Proof.Proofs
end

section
/-!
PROOFS. One step (41_step.md): the command that begins it (41 R130), its eleven micro-operations one by one (41 R131 to
R141), what none of them writes (41 R145), and the order in which they follow each other (41 R142).
-/

namespace Sys2Proof.Machine

/-! ## STEP in IDLE (41 R130) -/

theorem beginStep_idle {s : State} (idle : s.seq = .idle) : beginStep s = { s with inFrame := false, seq := .uIrq } := by
  rw [beginStep, if_pos (commandReady_idle idle .step)]

/-! ## The pending master-enable change (41 R138, 44 R238, 60 R281) -/

/-- A state whose CPU has `p` as its pending master-enable change. -/
def withPending (p : Option Bool) (s : State) : State := { s with cpu := { s.cpu with imePending := p } }

/-- A dispatch is the same whatever change is pending, and keeps it (60 R281). -/
theorem takeInterrupt_withPending (p : Option Bool) (s : State) :
    takeInterrupt (withPending p s) = withPending p (takeInterrupt s) := by
  cases source : dispatchSource s with
  | none => rw [takeInterrupt_none s source, takeInterrupt_none (withPending p s) source]
  | some i => rw [takeInterrupt_some s i source, takeInterrupt_some (withPending p s) i source]; rfl

theorem applyIme_some {c : Cpu} {v : Bool} (pending : c.imePending = some v) :
    applyIme c = { c with ime := v, imePending := none } := by
  simp only [applyIme, pending]

theorem applyIme_none {c : Cpu} (pending : c.imePending = none) : applyIme c = c := by
  simp only [applyIme, pending]

/-! ## A pause point by its hold and its flag (45 R253) -/

theorem pauseAt_held {s : State} (hold : held s = true) (p next : Uop) (flag : Bool) : pauseAt p flag next s = s := by
  rw [pauseAt, if_pos hold]

theorem pauseAt_stops {s : State} (free : held s = false) (p next : Uop) :
    pauseAt p true next s = { s with paused := true, seq := p } := by
  simp [pauseAt, free]

theorem pauseAt_passes {s : State} (free : held s = false) (p next : Uop) :
    pauseAt p false next s = { s with seq := next } := by
  simp [pauseAt, free, goto]

theorem held_of_hasDebug {s : State} (hasDebug : s.params.hasDebug = true) : held s = s.paused := by
  simp [held, hasDebug]

theorem held_of_running {s : State} (running : s.paused = false) : held s = false := by
  simp [held, running]

/-- A flag that is clear is not live, with the debug instrumentation or without it (45 R260). -/
theorem liveFlags_clear {s : State} {i : Nat} (clear : s.flags.getLsbD i = false) : (liveFlags s).getLsbD i = false := by
  unfold liveFlags
  split
  · exact clear
  · exact BitVec.getLsbD_zero

/-! ## The single-step pause (41 R134, 45 R254) -/

/-- No dump while the block is held. -/
theorem dumpOnArrival_held {s : State} (hold : held s = true) : dumpOnArrival s = s := by
  simp [dumpOnArrival, hold]

/-- No dump where the single-step pause falls through. -/
theorem dumpOnArrival_unflagged {s : State} (unflagged : stepByStep s = false) : dumpOnArrival s = s := by
  simp [dumpOnArrival, unflagged]

/-- One dump on arrival at the hold, exactly with `verbose_log`. -/
theorem dumpOnArrival_dumps {s : State} (free : held s = false) (flagged : stepByStep s = true) :
    (dumpOnArrival s).dumps = if verboseLog s = true then dumpOf s :: s.dumps else s.dumps := by
  cases verbose : verboseLog s <;> simp [dumpOnArrival, free, flagged, verbose]

theorem exec_uSstep_held {s : State} (hold : held s = true) : exec .uSstep s = .next s := by
  simp only [exec, execUSstep, dumpOnArrival_held hold, pauseAt_held hold]

theorem exec_uSstep_passes {s : State} (free : held s = false) (unflagged : stepByStep s = false) :
    exec .uSstep s = .next { s with seq := .uAcc } := by
  simp only [exec, execUSstep, dumpOnArrival_unflagged unflagged, unflagged, pauseAt_passes free]

theorem exec_uSstep_stops {s : State} (free : held s = false) (flagged : stepByStep s = true) :
    exec .uSstep s = .next { s with paused := true, seq := .uSstep, dumps := (dumpOnArrival s).dumps } := by
  have arrived : held (dumpOnArrival s) = false := (held_dumpOnArrival s).trans free
  simp only [exec, execUSstep, flagged, pauseAt_stops arrived]
  rw [dumpOnArrival_frame]

/-! ## The cost (41 R135, 30 R102) -/

/-- The cost of two bytes is at most 510. -/
theorem costOf_le (base extra : Byte) : costOf base extra ≤ 510 := by
  have baseBound := base.isLt
  have extraBound := extra.isLt
  unfold costOf
  omega

/-! ## What the micro-operations of a step write (41 R145) -/

/-- The eleven micro-operations of a step. -/
abbrev stepUops : List Instr :=
  [.uIrq, .uClrx, .uFetch, .uSstep, .uAcc, .uTimer, .uInput, .uIme, .uExec, .uDma, .uRetire]

/-- All that a micro-operation of a step can write: the counters, the position, the latches and `paused`, the space, the
collaborators it calls, and the record of dumps. -/
theorem exec_stepUop_frame {i : Instr} {s t : State} (member : i ∈ stepUops) (ran : exec i s = .next t) :
    t = { s with
      stepsExecuted := t.stepsExecuted, totalCycles := t.totalCycles, scanlineCycleCounter := t.scanlineCycleCounter
      seq := t.seq, ir := t.ir, base := t.base, cost := t.cost, paused := t.paused, ram := t.ram, cpu := t.cpu
      timer := t.timer, input := t.input, dumps := t.dumps } := by
  cases i with
  | uIrq => cases ran; rw [takeInterrupt_frame]; rfl
  | uSstep => cases ran; rw [pauseAt_frame, dumpOnArrival_frame]
  | uClrx | uFetch | uAcc | uTimer | uInput | uIme | uExec | uDma | uRetire => cases ran; rfl
  | _ => simp at member

/-! ## The order of a step (41 R142) -/

/-- Nothing keeps a step from running through: the host is quiet, and the single-step pause neither holds nor will. -/
structure RunsThrough (s : State) : Prop where
  wellFormed : s.params.wellFormed = true
  quiet : s.host = []
  running : s.paused = false
  unflagged : s.flags.getLsbD 0 = false

/-- The positions of a step before its last (41 R142). -/
abbrev beforeRetire : List Uop := [.uIrq, .uClrx, .uFetch, .uSstep, .uAcc, .uTimer, .uInput, .uIme, .uExec, .uDma]

/-- The position that follows in a step (41 R142). -/
def nextInStep : Uop → Uop
  | .uIrq => .uClrx
  | .uClrx => .uFetch
  | .uFetch => .uSstep
  | .uSstep => .uAcc
  | .uAcc => .uTimer
  | .uTimer => .uInput
  | .uInput => .uIme
  | .uIme => .uExec
  | .uExec => .uDma
  | .uDma => .uRetire
  | u => u

/-- The position `n` steps after `U_IRQ`, up to the last of a step (41 R142). -/
def stepPosition : Nat → Uop
  | 0 => .uIrq
  | n + 1 => nextInStep (stepPosition n)

/-- A micro-operation before the last goes on to the one that follows, and pauses nothing. -/
theorem exec_beforeRetire {u : Uop} {s t : State} (member : u ∈ beforeRetire) (through : RunsThrough s)
    (ran : exec (uopInstr u) s = .next t) : t.seq = nextInStep u ∧ t.paused = false := by
  cases u with
  | uIrq => cases ran; rw [takeInterrupt_frame]; exact ⟨rfl, through.running⟩
  | uSstep =>
    rw [uopInstr, exec_uSstep_passes (held_of_running through.running) (liveFlags_clear through.unflagged)] at ran
    cases ran
    exact ⟨rfl, through.running⟩
  | uClrx | uFetch | uAcc | uTimer | uInput | uIme | uExec | uDma => cases ran; exact ⟨rfl, through.running⟩
  | _ => simp at member

/-- Part of a step has led from `s` to `t`: nothing keeps it from running on, it is not counted yet, and it will return as it
would have from `s`. -/
structure Underway (s t : State) : Prop where
  through : RunsThrough t
  uncounted : t.stepsExecuted = s.stepsExecuted
  inFrame : t.inFrame = s.inFrame

theorem Underway.trans {s t u : State} (first : Underway s t) (second : Underway t u) : Underway s u :=
  ⟨second.through, second.uncounted.trans first.uncounted, second.inFrame.trans first.inFrame⟩

/-- The positions before the last have their micro-operations among those of a step, and `U_RETIRE` is none of them. -/
theorem beforeRetire_uops : ∀ u ∈ beforeRetire, uopInstr u ∈ stepUops ∧ uopInstr u ≠ .uRetire := by decide

/-- A micro-operation before the last leaves the step underway: it counts nothing and writes nothing the run depends on. -/
theorem exec_beforeRetire_underway {u : Uop} {s t : State} (member : u ∈ beforeRetire) (through : RunsThrough s)
    (ran : exec (uopInstr u) s = .next t) : Underway s t := by
  obtain ⟨ofStep, notRetire⟩ := beforeRetire_uops u member
  obtain ⟨_, running⟩ := exec_beforeRetire member through ran
  obtain ⟨counted, _⟩ := Proofs.countersOnlyGrowWhereTheyMust _ s t ran
  have frame := exec_stepUop_frame ofStep ran
  have host : t.host = s.host := by rw [frame]
  have flags : t.flags = s.flags := by rw [frame]
  have inFrame : t.inFrame = s.inFrame := by rw [frame]
  have through' : RunsThrough t := ⟨exec_params _ s t ran ▸ through.wellFormed, host.trans through.quiet, running,
    flags ▸ through.unflagged⟩
  exact ⟨through', by simpa [notRetire] using counted, inFrame⟩

/-- With a quiet host a step is the micro-operation at `seq` (00 R8). -/
theorem RunsThrough.step_eq {s : State} (through : RunsThrough s) : step s = exec (uopInstr s.seq) s :=
  step_run s s _ through.wellFormed (nextMove_exhausted s through.quiet)

/-- A step from a position before the last goes on to the one that follows. -/
theorem step_beforeRetire {s : State} (member : s.seq ∈ beforeRetire) (through : RunsThrough s) :
    ∃ t, step s = .next t ∧ t.seq = nextInStep s.seq ∧ Underway s t := by
  obtain ⟨t, ran⟩ := exec_next (uopInstr s.seq) s
  obtain ⟨goesOn, _⟩ := exec_beforeRetire member through ran
  exact ⟨t, through.step_eq.trans ran, goesOn, exec_beforeRetire_underway member through ran⟩

/-- A run of one step more is a step from where the run has led. -/
theorem run_succ {M : Host.Core} {n : Nat} {s t : M.State} (ran : M.run n s = .next t) : M.run (n + 1) s = M.step t := by
  induction n generalizing s with
  | zero =>
    cases ran
    cases next : M.step t <;> simp [Host.Core.run, next]
  | succ n ih =>
    cases first : M.step s with
    | next u =>
      simp only [Host.Core.run, first] at ran
      rw [← ih ran, Host.Core.run, first]
    | fault r | refused r => simp [Host.Core.run, first] at ran

/-- The first ten positions of a step are before its last. -/
theorem stepPosition_beforeRetire : ∀ n < 10, stepPosition n ∈ beforeRetire := by decide

/-- The first ten steps from `U_IRQ` go through the positions in order. -/
theorem run_throughStep {s : State} (start : s.seq = .uIrq) (through : RunsThrough s) {n : Nat} (within : n ≤ 10) :
    ∃ t : State, Host.Core.run core n s = .next t ∧ t.seq = stepPosition n ∧ Underway s t := by
  induction n with
  | zero => exact ⟨s, rfl, start, through, rfl, rfl⟩
  | succ n ih =>
    obtain ⟨t, ran, here, underway⟩ := ih (by omega)
    have member : t.seq ∈ beforeRetire := here ▸ stepPosition_beforeRetire n within
    obtain ⟨u, stepped, there, further⟩ := step_beforeRetire member underway.through
    refine ⟨u, (run_succ ran).trans stepped, ?_, underway.trans further⟩
    rw [there, here, stepPosition]

/-- The number of steps from `U_IRQ` with the position they lead to (41 R142). -/
abbrev stepPositions : List (Nat × Uop) :=
  [(1, .uClrx), (2, .uFetch), (3, .uSstep), (4, .uAcc), (5, .uTimer), (6, .uInput), (7, .uIme), (8, .uExec), (9, .uDma),
    (10, .uRetire)]

/-- The listed positions are those `stepPosition` gives, within the first ten steps. -/
theorem stepPosition_of_listed : ∀ p ∈ stepPositions, p.1 ≤ 10 ∧ stepPosition p.1 = p.2 := by decide

end Sys2Proof.Machine

namespace Sys2Proof.Proofs

open Sys2Proof.Machine

/-- Settles O35: the frame of a step's micro-operations names none of the six registers. -/
theorem stepLeavesModesAndLineAlone : Obligations.StepLeavesModesAndLineAlone := by
  intro i s t member ran
  rw [exec_stepUop_frame member ran]
  exact ⟨rfl, rfl, rfl, rfl, rfl, rfl⟩

/-- Settles O36: the first ten steps go through the positions in order, and the eleventh is `U_RETIRE`. -/
theorem elevenMicroOperationsInOrder : Obligations.ElevenMicroOperationsInOrder := by
  intro s wellFormed quiet start running unflagged
  have through : RunsThrough s := ⟨wellFormed, quiet, running, unflagged⟩
  refine ⟨fun n u listed => ?_, ?_⟩
  · obtain ⟨within, position⟩ := stepPosition_of_listed (n, u) listed
    obtain ⟨t, ran, here, _⟩ := run_throughStep start through within
    exact ⟨t, ran, here.trans position⟩
  · obtain ⟨t, ran, here, underway⟩ := run_throughStep start through (Nat.le_refl 10)
    have retires : step t = exec .uRetire t := by rw [underway.through.step_eq, here]; rfl
    refine ⟨_, (run_succ ran).trans retires, ?_, ?_⟩
    · rw [← underway.uncounted]
    · rw [← underway.inFrame]

/-- Settles O15: a block in IDLE is ready for STEP. -/
theorem stepCommandBeginsOneStep : Obligations.StepCommandBeginsOneStep :=
  fun _ idle => congrArg Host.Outcome.next (beginStep_idle idle)

/-- Settles O24: taking the interrupt and changing what is pending commute. -/
theorem dispatchIgnoresThePendingEnable : Obligations.DispatchIgnoresThePendingEnable := fun s p =>
  ⟨goto .uClrx (takeInterrupt s), rfl, congrArg (Host.Outcome.next ∘ goto .uClrx) (takeInterrupt_withPending p s),
    takeInterrupt_imePending s⟩

/-- Settles O25: the micro-operation writes the accumulator and the position. -/
theorem clearExtraClearsOnlyTheAccumulator : Obligations.ClearExtraClearsOnlyTheAccumulator := fun _ => rfl

/-- Settles O26: by the port's answer at the byte at `cpu.pc`. -/
theorem fetchReadsTheByteAtPc : Obligations.FetchReadsTheByteAtPc := fun s =>
  ⟨_, fetchAnswer s, rfl, rfl, rfl, rfl, rfl, rfl, rfl, rfl, rfl⟩

/-- Settles O27: the pause point falls through, stops or holds, and dumps on arrival at the stop alone. -/
theorem singleStepPause : Obligations.SingleStepPause := by
  intro s hasDebug
  have live : liveFlags s = s.flags := liveFlags_of_hasDebug hasDebug
  refine ⟨fun running clear => ?_, fun running set => ?_, fun paused => ?_⟩
  · exact exec_uSstep_passes (held_of_running running) (liveFlags_clear clear)
  · have free := held_of_running running
    have flagged : stepByStep s = true := by rw [stepByStep, live, set]
    refine ⟨_, exec_uSstep_stops free flagged, rfl, ?_⟩
    rw [dumpOnArrival_dumps free flagged, verboseLog, live]
  · exact exec_uSstep_held ((held_of_hasDebug hasDebug).trans paused)

/-- Settles O28: the cost of two bytes needs no wrap. -/
theorem accumulateAddsTheCostTwice : Obligations.AccumulateAddsTheCostTwice := fun s =>
  ⟨_, rfl, rfl, rfl, costOf_le s.base s.cpu.extra, rfl, rfl⟩

/-- Settles O29: by the timer's answer at the cost on the cycle bus. -/
theorem timerIsAdvancedByTheCost : Obligations.TimerIsAdvancedByTheCost := fun s =>
  ⟨_, timerAnswer s, rfl, rfl, rfl, rfl, fun a elsewhere => readByte_storeAll_other _ s a elsewhere⟩

/-- Settles O30: by the poller's answer at the present controller state. -/
theorem inputIsRefreshedFromTheController : Obligations.InputIsRefreshedFromTheController := fun s =>
  ⟨_, inputAnswer s, rfl, rfl, rfl, rfl, fun a elsewhere => readByte_storeAll_other _ s a elsewhere⟩

/-- Settles O31: by whether a change is pending. -/
theorem pendingEnableIsAppliedAtIme : Obligations.PendingEnableIsAppliedAtIme := by
  intro s
  refine ⟨fun v pending => ?_, fun nothing => ?_⟩
  · simp only [exec, execUIme, applyIme_some pending]
  · simp only [exec, execUIme, applyIme_none nothing]

/-- Settles O32: by the CPU's answer at the latched descriptor. -/
theorem executeHandsBackTheDescriptor : Obligations.ExecuteHandsBackTheDescriptor := fun s =>
  ⟨_, executeAnswer s, rfl, rfl, rfl, rfl, fun a elsewhere => readByte_storeAll_other _ s a elsewhere⟩

/-- Settles O33: the engine's stores and the position are all that changes. -/
theorem dmaCopiesWithinTheStep : Obligations.DmaCopiesWithinTheStep := fun s =>
  ⟨_, dmaWrites s, rfl, rfl, rfl, rfl, fun a elsewhere => readByte_storeAll_other _ s a elsewhere⟩

/-- Settles O34: the micro-operation counts the step and returns by `in_frame`. -/
theorem retireCountsTheStep : Obligations.RetireCountsTheStep := fun _ => rfl

end Sys2Proof.Proofs
end

section
/-!
PROOFS. The PPU mode state machine (42_mode.md): the derived mode (42 R161, R172), the mode field (42 R163), when an
observation raises the STAT request (42 R164 to R169, R177), and what `M_EVAL` makes of the state (42 R162, R170, R171).
-/

namespace Sys2Proof.Machine

/-! ## The derived mode in the visible phase (42 R161) -/

theorem deriveMode_oamScan {p : Params} {c : Nat} (scanning : c < p.oamEnd) : deriveMode p .visible c = .oamScan :=
  if_pos scanning

theorem deriveMode_pixelTransfer {p : Params} {c : Nat} (scanned : p.oamEnd ≤ c) (drawing : c < p.hblankStart) :
    deriveMode p .visible c = .pixelTransfer :=
  (if_neg (Nat.not_lt.mpr scanned)).trans (if_pos drawing)

theorem deriveMode_hBlank {p : Params} {c : Nat} (scanned : p.oamEnd ≤ c) (drawn : p.hblankStart ≤ c) :
    deriveMode p .visible c = .hBlank :=
  (if_neg (Nat.not_lt.mpr scanned)).trans (if_neg (Nat.not_lt.mpr drawn))

/-! ## The mode field of STAT (42 R163) -/

/-- `0xFC` selects bits 7:2. -/
theorem statMask_getLsbD : ∀ i < 8, (0xFC : Byte).getLsbD i = decide (2 ≤ i) := by decide

/-- The stored byte bit by bit: the code below bit 2, the byte as read from there on. -/
theorem withModeField_getLsbD (stat : Byte) (code : BitVec 2) {i : Nat} (inByte : i < 8) :
    (withModeField stat code).getLsbD i = if i < 2 then code.getLsbD i else stat.getLsbD i := by
  simp only [withModeField, BitVec.getLsbD_or, BitVec.getLsbD_and, BitVec.getLsbD_setWidth, statMask_getLsbD i inByte]
  by_cases field : i < 2
  · have masked : decide (2 ≤ i) = false := decide_eq_false (Nat.not_le.mpr field)
    rw [if_pos field, masked, Bool.and_false, Bool.false_or, decide_eq_true inByte, Bool.true_and]
  · have kept : decide (2 ≤ i) = true := decide_eq_true (Nat.le_of_not_lt field)
    rw [if_neg field, kept, Bool.and_true, BitVec.getLsbD_of_ge code i (Nat.le_of_not_lt field), Bool.and_false,
      Bool.or_false]

theorem withModeField_field (stat : Byte) (code : BitVec 2) : (withModeField stat code).extractLsb' 0 2 = code := by
  refine BitVec.eq_of_getLsbD_eq fun i field => ?_
  rw [BitVec.getLsbD_extractLsb', Nat.zero_add, withModeField_getLsbD stat code (by omega), if_pos field,
    decide_eq_true field, Bool.true_and]

theorem withModeField_upper (stat : Byte) (code : BitVec 2) :
    (withModeField stat code).extractLsb' 2 6 = stat.extractLsb' 2 6 := by
  refine BitVec.eq_of_getLsbD_eq fun i upper => ?_
  rw [BitVec.getLsbD_extractLsb', BitVec.getLsbD_extractLsb', withModeField_getLsbD stat code (by omega),
    if_neg (by omega)]

/-! ## When the STAT request is raised (42 R164 to R169) -/

/-- Without an edge nothing is raised (42 R164). -/
theorem statRaise_unchanged (p : Params) (stat ly lyc : Byte) (m : Mode) : statRaise p stat ly lyc m m = false := by
  rw [statRaise, modeChanged, bne_self_eq_false, Bool.false_and]

/-- The raise in words: an edge, and one of the four conditions (42 R169). -/
theorem statRaise_iff (p : Params) (stat ly lyc : Byte) (prev m : Mode) :
    statRaise p stat ly lyc prev m = true ↔
      m ≠ prev
        ∧ (stat.getLsbD p.statSelLyc.val = true ∧ ly = lyc ∧ prev = .hBlank
          ∨ stat.getLsbD p.statSelHblank.val = true ∧ m = .hBlank
          ∨ stat.getLsbD p.statSelVblank.val = true ∧ m = .vBlank
          ∨ stat.getLsbD p.statSelPt.val = true ∧ m = .pixelTransfer) := by
  simp only [statRaise, modeChanged, condLyc, condHblank, condVblank, condPt, bitOf, Bool.and_eq_true, Bool.or_eq_true,
    bne_iff_ne, beq_iff_eq, or_assoc, and_assoc]

/-- The select bit of the mode just entered; OAMScan has none (42 R166 to R168, R172). -/
def selectedOnEntry (p : Params) (stat : Byte) : Mode → Bool
  | .hBlank => stat.getLsbD p.statSelHblank.val
  | .vBlank => stat.getLsbD p.statSelVblank.val
  | .oamScan => false
  | .pixelTransfer => stat.getLsbD p.statSelPt.val

/-- The test of a mode decides equality. -/
theorem mode_beq_eq_decide (m n : Mode) : (m == n) = decide (m = n) := rfl

/-- Of the three conditions on the mode entered only its own can hold. -/
theorem entryConditions_eq_selectedOnEntry (p : Params) (stat : Byte) (m : Mode) :
    (condHblank p stat m || condVblank p stat m || condPt p stat m) = selectedOnEntry p stat m := by
  cases m <;> simp only [condHblank, condVblank, condPt, bitOf, selectedOnEntry, mode_beq_eq_decide, reduceCtorEq,
    decide_true, decide_false, Bool.and_true, Bool.and_false, Bool.or_false, Bool.false_or]

/-- On an edge the request is raised by the select bit of the mode entered or by the scanline comparison. -/
theorem statRaise_edge {prev m : Mode} (edge : m ≠ prev) (p : Params) (stat ly lyc : Byte) :
    statRaise p stat ly lyc prev m = (selectedOnEntry p stat m || condLyc p stat ly lyc prev) := by
  have changed : modeChanged prev m = true := bne_iff_ne.mpr edge
  rw [← entryConditions_eq_selectedOnEntry, statRaise, changed, Bool.true_and, Bool.or_comm _ (condLyc ..)]
  simp only [Bool.or_assoc]

/-- An edge out of HBlank: the scanline comparison counts (42 R165). -/
theorem statRaise_from_hBlank {m : Mode} (edge : m ≠ .hBlank) (p : Params) (stat ly lyc : Byte) :
    statRaise p stat ly lyc .hBlank m = (selectedOnEntry p stat m || (stat.getLsbD p.statSelLyc.val && ly == lyc)) := by
  rw [statRaise_edge edge, condLyc, beq_self_eq_true, Bool.and_true, bitOf]

/-- An edge out of another mode: only the select bit of the mode entered counts (42 R165). -/
theorem statRaise_from_other {prev m : Mode} (edge : m ≠ prev) (other : prev ≠ .hBlank) (p : Params)
    (stat ly lyc : Byte) : statRaise p stat ly lyc prev m = selectedOnEntry p stat m := by
  rw [statRaise_edge edge, condLyc, beq_eq_false_iff_ne.mpr other, Bool.and_false, Bool.or_false]

/-! ## The registers of an observation are apart (00 R5) -/

/-- The mode field is stored away from IF, LY and LYC. -/
theorem addresses_ne_aSTAT {p : Params} (wellFormed : p.wellFormed = true) :
    p.aIF ≠ p.aSTAT ∧ p.aLY ≠ p.aSTAT ∧ p.aLYC ≠ p.aSTAT := by
  have distinct : p.addresses.Nodup := by
    simp only [Params.wellFormed, Bool.and_eq_true, decide_eq_true_eq] at wellFormed
    obtain ⟨⟨⟨⟨⟨⟨_, distinct⟩, _⟩, _⟩, _⟩, _⟩, _⟩ := wellFormed
    exact distinct
  simp only [Params.addresses, List.nodup_cons, List.mem_cons, not_or] at distinct
  obtain ⟨_, ⟨ifStat, _⟩, ⟨statLy, statLyc, _⟩, _⟩ := distinct
  exact ⟨ifStat, Ne.symm statLy, Ne.symm statLyc⟩

/-! ## The stores of an observation (42 R162, R163, R169) -/

/-- The mode field is stored at STAT alone. -/
theorem memRead_ramAfterModeField_other {s : State} {a : Addr} (elsewhere : a ≠ s.params.aSTAT) :
    memRead (ramAfterModeField s) a = readByte s a :=
  memRead_memWrite_other s.ram _ a _ elsewhere

/-- The raise reads LY and LYC as they were before the mode field was stored (42 R165). -/
theorem observationRaises_eq {s : State} (wellFormed : s.params.wellFormed = true) :
    observationRaises s = statRaise s.params (readByte s s.params.aSTAT) (readByte s s.params.aLY)
      (readByte s s.params.aLYC) s.previousMode (observedMode s) := by
  obtain ⟨_, ly, lyc⟩ := addresses_ne_aSTAT wellFormed
  rw [observationRaises, memRead_ramAfterModeField_other ly, memRead_ramAfterModeField_other lyc]

/-- The space after an observation: the mode field stored, and on a raise the request bit set. -/
theorem memWriteAll_observationWrites (s : State) :
    memWriteAll s.ram (observationWrites s)
      = if observationRaises s = true then
          memWrite (ramAfterModeField s) s.params.aIF
            (withBit (memRead (ramAfterModeField s) s.params.aIF) s.params.ifStat)
        else ramAfterModeField s := by
  unfold observationWrites
  split <;> rfl

/-! ## `M_EVAL` (42 R162) -/

section
variable {s t : State} (ran : exec .mEval s = .next t)
include ran

/-- An observation writes the space, both modes and the position. -/
theorem mEval_frame : t = { s with
    ram := t.ram, currentMode := observedMode s, previousMode := observedMode s, seq := .lTest } := by
  cases ran; rfl

/-- A byte after an observation is the one in the space its stores leave. -/
theorem mEval_readByte (a : Addr) : readByte t a = memRead (memWriteAll s.ram (observationWrites s)) a := by
  cases ran; rfl

/-- An observation leaves every byte but STAT and IF as it is. -/
theorem mEval_readByte_other {a : Addr} (notStat : a ≠ s.params.aSTAT) (notIf : a ≠ s.params.aIF) :
    readByte t a = readByte s a := by
  rw [mEval_readByte ran, memWriteAll_observationWrites]
  split
  · rw [memRead_memWrite_other _ _ _ _ notIf, memRead_ramAfterModeField_other notStat]
  · exact memRead_ramAfterModeField_other notStat

/-- STAT after an observation: the mode field replaced, whether or not a request is raised. -/
theorem mEval_stat (wellFormed : s.params.wellFormed = true) :
    readByte t s.params.aSTAT
      = withModeField (readByte s s.params.aSTAT) (modeCode s.params (observedMode s)) := by
  obtain ⟨apart, _, _⟩ := addresses_ne_aSTAT wellFormed
  have stored : memRead (ramAfterModeField s) s.params.aSTAT = (modeFieldWrite s).byte := memRead_memWrite_same ..
  rw [mEval_readByte ran, memWriteAll_observationWrites]
  split
  · exact (memRead_memWrite_other _ _ _ _ apart.symm).trans stored
  · exact stored

/-- IF after an observation: the request bit set on a raise, the byte as it was without one. -/
theorem mEval_if (wellFormed : s.params.wellFormed = true) :
    readByte t s.params.aIF
      = if observationRaises s = true then withBit (readByte s s.params.aIF) s.params.ifStat
        else readByte s s.params.aIF := by
  obtain ⟨apart, _, _⟩ := addresses_ne_aSTAT wellFormed
  rw [mEval_readByte ran, memWriteAll_observationWrites, ← memRead_ramAfterModeField_other apart]
  split
  · exact memRead_memWrite_same ..
  · rfl

/-- A bit of IF after an observation: set before, or the request bit on a raise. -/
theorem mEval_if_getLsbD (wellFormed : s.params.wellFormed = true) (j : Fin 8) :
    (readByte t s.params.aIF).getLsbD j.val = true ↔
      (readByte s s.params.aIF).getLsbD j.val = true ∨ j = s.params.ifStat ∧ observationRaises s = true := by
  rw [mEval_if ran wellFormed]
  split
  case isTrue raised => rw [withBit_getLsbD, Bool.or_eq_true, decide_eq_true_eq, and_iff_left raised]
  case isFalse quiet => exact (or_iff_left fun requested => quiet requested.2).symm

/-- An observation that finds the mode of the one before leaves IF as it is (42 R164). -/
theorem mEval_if_unchanged (wellFormed : s.params.wellFormed = true) (same : observedMode s = s.previousMode) :
    readByte t s.params.aIF = readByte s s.params.aIF := by
  have quiet : observationRaises s = false := by
    rw [observationRaises_eq wellFormed, same, statRaise_unchanged]
  rw [mEval_if ran wellFormed, quiet]
  exact if_neg Bool.false_ne_true

end

end Sys2Proof.Machine

namespace Sys2Proof.Proofs

open Sys2Proof.Machine

/-- Settles O38: the observation's frame, and its store of the mode field bit by bit. -/
theorem observationWritesTheModeField : Obligations.ObservationWritesTheModeField := by
  intro s wellFormed
  obtain ⟨t, ran⟩ := exec_next .mEval s
  refine ⟨t, observedMode s, ran, rfl, mEval_frame ran, ?_, ?_, fun a notStat notIf =>
    mEval_readByte_other ran notStat notIf⟩
  · rw [mEval_stat ran wellFormed, withModeField_field]
  · rw [mEval_stat ran wellFormed, withModeField_upper]

/-- Settles O39: the request bit is set on a raise, and the raise is an edge with one of the four conditions. -/
theorem statRequestIsRaisedOnQualifyingEdges : Obligations.StatRequestIsRaisedOnQualifyingEdges := by
  intro s wellFormed
  obtain ⟨t, ran⟩ := exec_next .mEval s
  refine ⟨t, observedMode s, readByte s s.params.aSTAT, ran, rfl, rfl, fun j => ?_⟩
  rw [mEval_if_getLsbD ran wellFormed, observationRaises_eq wellFormed, statRaise_iff]

/-- Settles O41: the first observation leaves its mode in `previous_mode`, so the later one sees no edge. -/
theorem repeatedObservationRaisesNothing : Obligations.RepeatedObservationRaisesNothing := by
  intro s t s' t' ran lag params wellFormed sameMode ran'
  have left : t.previousMode = observedMode s := by rw [mEval_frame ran]
  have same : observedMode s' = s'.previousMode := sameMode.trans (lag.trans left).symm
  rw [← params] at wellFormed ⊢
  exact mEval_if_unchanged ran' wellFormed same

/-- Settles O37: the tail by definition, the visible phase by the two thresholds. -/
theorem modeIsDerivedFromPhaseAndCounter : Obligations.ModeIsDerivedFromPhaseAndCounter := fun _ _ =>
  ⟨rfl, deriveMode_oamScan, deriveMode_pixelTransfer, deriveMode_hBlank⟩

/-- Settles O40: the diagonal has no edge, the scanline comparison counts in the rows out of HBlank, and in the other rows
the select bit of the mode entered decides. -/
theorem raiseTruthTable : Obligations.RaiseTruthTable := by
  intro p stat ly lyc prev m
  cases prev with
  | hBlank =>
    cases m with
    | hBlank => exact statRaise_unchanged ..
    | oamScan => exact (statRaise_from_hBlank (by decide) ..).trans (Bool.false_or _)
    | vBlank | pixelTransfer => exact statRaise_from_hBlank (by decide) ..
  | vBlank =>
    cases m with
    | vBlank => exact statRaise_unchanged ..
    | hBlank | oamScan | pixelTransfer => exact statRaise_from_other (by decide) (by decide) ..
  | oamScan =>
    cases m with
    | oamScan => exact statRaise_unchanged ..
    | hBlank | vBlank | pixelTransfer => exact statRaise_from_other (by decide) (by decide) ..
  | pixelTransfer =>
    cases m with
    | pixelTransfer => exact statRaise_unchanged ..
    | hBlank | vBlank | oamScan => exact statRaise_from_other (by decide) (by decide) ..

/-- Settles O42: with `OAM_END` = 0 the scan is over at every counter. -/
theorem twoPhasePolicyNeverScansOam : Obligations.TwoPhasePolicyNeverScansOam := by
  intro p phase c twoPhase
  have scanned : p.oamEnd ≤ c := twoPhase ▸ Nat.zero_le c
  cases phase with
  | tail => exact nofun
  | visible =>
    rcases Nat.lt_or_ge c p.hblankStart with drawing | drawn
    · rw [deriveMode_pixelTransfer scanned drawing]
      decide
    · rw [deriveMode_hBlank scanned drawn]
      decide

end Sys2Proof.Proofs
end

section
/-!
PROOFS. The frame (43_frame.md): the command that begins it (43 R190), its ten micro-operations one by one (43 R191 to
R202), and what the block's own stores can do to IF (43 R204).
-/

namespace Sys2Proof.Machine

/-! ## FRAME in IDLE (43 R190) -/

theorem beginFrame_idle {s : State} (idle : s.seq = .idle) : beginFrame s = { s with seq := .fStart } := by
  rw [beginFrame, if_pos (commandReady_idle idle .frame)]
  rfl

/-! ## One store (20 R60) -/

theorem readByte_store_same (w : Write) (s : State) : readByte (storeAll [w] s) w.addr = w.byte :=
  memRead_memWrite_same s.ram w.addr w.byte

theorem readByte_store_other (w : Write) (s : State) {a : Addr} (elsewhere : a ≠ w.addr) :
    readByte (storeAll [w] s) a = readByte s a :=
  memRead_memWrite_other s.ram w.addr a w.byte elsewhere

/-! ## Where `L_TEST` goes (43 R193) -/

theorem lineTestTarget_below {s : State} (below : s.scanlineCycleCounter < s.params.scanlineCycleBudget) :
    lineTestTarget s = .uIrq :=
  if_pos below

theorem lineTestTarget_visible {s : State} (spent : s.params.scanlineCycleBudget ≤ s.scanlineCycleCounter)
    (phase : s.phase = .visible) : lineTestTarget s = .lCommit := by
  simp only [lineTestTarget, if_neg (Nat.not_lt.mpr spent), phase]

theorem lineTestTarget_tail {s : State} (spent : s.params.scanlineCycleBudget ≤ s.scanlineCycleCounter)
    (phase : s.phase = .tail) : lineTestTarget s = .lInc := by
  simp only [lineTestTarget, if_neg (Nat.not_lt.mpr spent), phase]

/-! ## The scanline register (43 R196) -/

theorem nextLine_toNat (ly : Byte) : (nextLine ly).toNat = (ly.toNat + 1) % 256 := BitVec.toNat_add ly 1

/-! ## The pauses of a line and of a frame (43 R197, R201, 45 R253) -/

theorem pauseAt_liveFlag_clear {s : State} {i : Nat} (running : s.paused = false) (clear : s.flags.getLsbD i = false)
    (p next : Uop) : pauseAt p ((liveFlags s).getLsbD i) next s = { s with seq := next } := by
  rw [liveFlags_clear clear, pauseAt_passes (held_of_running running)]

theorem pauseAt_liveFlag_set {s : State} {i : Nat} (hasDebug : s.params.hasDebug = true) (running : s.paused = false)
    (set : s.flags.getLsbD i = true) (p next : Uop) :
    pauseAt p ((liveFlags s).getLsbD i) next s = { s with paused := true, seq := p } := by
  rw [liveFlags_of_hasDebug hasDebug, set, pauseAt_stops (held_of_running running)]

/-- A micro-operation that is a pause point on one flag: it falls through, stops on arrival, or holds. -/
theorem pausePoint_outcomes {s : State} (hasDebug : s.params.hasDebug = true) {o : Host.Outcome State Fault Refusal}
    {p next : Uop} {i : Nat} (isPause : o = .next (pauseAt p ((liveFlags s).getLsbD i) next s)) :
    (s.paused = false → s.flags.getLsbD i = false → o = .next { s with seq := next })
      ∧ (s.paused = false → s.flags.getLsbD i = true → o = .next { s with paused := true, seq := p })
      ∧ (s.paused = true → o = .next s) := by
  refine ⟨fun running clear => ?_, fun running set => ?_, fun paused => ?_⟩
  · rw [isPause, pauseAt_liveFlag_clear running clear]
  · rw [isPause, pauseAt_liveFlag_set hasDebug running set]
  · rw [isPause, pauseAt_held ((held_of_hasDebug hasDebug).trans paused)]

/-! ## The line count (43 R198) -/

theorem raisedLine_at_255 {s : State} (full : s.line = 255) : raisedLine s = Config.freeLine s.freeCount := if_pos full

theorem drawnByNextLine_at_255 {s : State} (full : s.line = 255) : drawnByNextLine s = s.freeCount + 1 := if_pos full

theorem drawnByNextLine_below_255 {s : State} (below : s.line ≠ 255) : drawnByNextLine s = s.freeCount := if_neg below

theorem line_toNat_lt_255 {line : BitVec 8} (below : line ≠ 255) : line.toNat < 255 := by bv_omega

theorem nextLineTarget_visible {s : State} (phase : s.phase = .visible) (n : BitVec 8) :
    nextLineTarget s n = if n.toNat = visibleLines then .vEntry else .lEntry := by
  simp only [nextLineTarget, phase]

theorem nextLineTarget_tail {s : State} (phase : s.phase = .tail) (n : BitVec 8) :
    nextLineTarget s n = if n.toNat = visibleLines + s.params.vblankLines then .fPause else .lEntry := by
  simp only [nextLineTarget, phase]

/-! ## What the block's own stores do to IF (43 R204) -/

/-- The register addresses and the request bits of an instance are pairwise distinct (00 R5). -/
theorem registers_nodup {p : Params} (wellFormed : p.wellFormed = true) : p.addresses.Nodup ∧ p.requestBits.Nodup := by
  simp only [Params.wellFormed, Bool.and_eq_true, decide_eq_true_eq] at wellFormed
  obtain ⟨⟨⟨⟨⟨⟨_, addresses⟩, bits⟩, _⟩, _⟩, _⟩, _⟩ := wellFormed
  exact ⟨addresses, bits⟩

theorem aIF_ne_aLY {p : Params} (wellFormed : p.wellFormed = true) : p.aIF ≠ p.aLY := by
  obtain ⟨distinct, _⟩ := registers_nodup wellFormed
  simp only [Params.addresses, List.nodup_cons, List.mem_cons, not_or] at distinct
  obtain ⟨_, ⟨_, ifLy, _⟩, _⟩ := distinct
  exact ifLy

theorem ifVblank_ne_ifStat {p : Params} (wellFormed : p.wellFormed = true) : p.ifVblank ≠ p.ifStat := by
  obtain ⟨_, distinct⟩ := registers_nodup wellFormed
  simp only [Params.requestBits, List.nodup_cons, List.mem_cons, not_or] at distinct
  obtain ⟨⟨vblankStat, _⟩, _⟩ := distinct
  exact vblankStat

/-- `V_ENTRY` makes `SetBit(A_IF, IF_VBLANK)` (43 R199). -/
theorem vEntry_if {s t : State} (ran : exec .vEntry s = .next t) :
    readByte t s.params.aIF = withBit (readByte s s.params.aIF) s.params.ifVblank := by
  cases ran
  exact readByte_store_same (vblankWrite s) s

/-- `SetBit` clears no bit (20 R64). -/
theorem withBit_getLsbD_of_set {v : Byte} {j : Fin 8} (set : v.getLsbD j.val = true) (i : Fin 8) :
    (withBit v i).getLsbD j.val = true := by
  rw [withBit_getLsbD, set, Bool.true_or]

/-- `SetBit` leaves the other bits as read (20 R64). -/
theorem withBit_getLsbD_other {i j : Fin 8} (other : j ≠ i) (v : Byte) :
    (withBit v i).getLsbD j.val = v.getLsbD j.val := by
  rw [withBit_getLsbD, decide_eq_false other, Bool.or_false]

/-- The block's own stores leave IF as it is, or set one bit of it: `IF_STAT` but at `V_ENTRY` (42 R169, 43 R199). -/
theorem ownStores_if {i : Instr} {s t : State} (wellFormed : s.params.wellFormed = true)
    (member : i ∈ [Instr.mEval, .fStart, .lInc, .vEntry]) (ran : exec i s = .next t) :
    readByte t s.params.aIF = readByte s s.params.aIF
      ∨ ∃ b, readByte t s.params.aIF = withBit (readByte s s.params.aIF) b ∧ (i ≠ .vEntry → b = s.params.ifStat) := by
  cases i with
  | mEval =>
    have requested := mEval_if ran wellFormed
    split at requested
    · exact .inr ⟨_, requested, fun _ => rfl⟩
    · exact .inl requested
  | fStart => cases ran; exact .inl (readByte_store_other (frameStartWrite s) s (aIF_ne_aLY wellFormed))
  | lInc => cases ran; exact .inl (readByte_store_other (lineIncWrite s) s (aIF_ne_aLY wellFormed))
  | vEntry => exact .inr ⟨_, vEntry_if ran, fun other => absurd rfl other⟩
  | _ => simp at member

end Sys2Proof.Machine

namespace Sys2Proof.Proofs

open Sys2Proof.Machine

/-- Settles O53: a store of the block's own to IF sets one bit, which outside `V_ENTRY` is `IF_STAT`. -/
theorem onlyVblankEntrySetsTheVblankBit : Obligations.OnlyVblankEntrySetsTheVblankBit := by
  intro i s t wellFormed member ran
  rcases ownStores_if wellFormed member ran with kept | ⟨b, stored, ofStat⟩
  · rw [kept]
    exact ⟨fun _ => rfl, fun _ set => set⟩
  · rw [stored]
    refine ⟨fun other => ?_, fun _ set => withBit_getLsbD_of_set set b⟩
    exact withBit_getLsbD_other (ofStat other ▸ ifVblank_ne_ifStat wellFormed) _

/-- Settles O16: a block in IDLE is ready for FRAME. -/
theorem frameCommandBeginsOneFrame : Obligations.FrameCommandBeginsOneFrame :=
  fun _ idle => congrArg Host.Outcome.next (beginFrame_idle idle)

/-- Settles O43: the one store goes to LY, and the other writes are registers of the block. -/
theorem frameStartZeroesTheScanline : Obligations.FrameStartZeroesTheScanline := fun s =>
  ⟨_, rfl, rfl, readByte_store_same (frameStartWrite s) s,
    fun _ => readByte_store_other (frameStartWrite s) s⟩

/-- Settles O44: the micro-operation writes the counter and the position. -/
theorem lineEntryResetsTheCounter : Obligations.LineEntryResetsTheCounter := fun _ => rfl

/-- Settles O45: only the position is written, by the budget and the phase. -/
theorem lineTestComparesWithTheBudget : Obligations.LineTestComparesWithTheBudget := by
  intro s
  have test : exec .lTest s = .next { s with seq := lineTestTarget s } := rfl
  refine ⟨fun below => ?_, fun spent phase => ?_, fun spent phase => ?_⟩
  · rw [test, lineTestTarget_below below]
  · rw [test, lineTestTarget_visible spent phase]
  · rw [test, lineTestTarget_tail spent phase]

/-- Settles O46: by the PPU's answer for its buffer and the space. -/
theorem commitGivesTheLineToThePpu : Obligations.CommitGivesTheLineToThePpu := fun s =>
  ⟨_, commitAnswer s, rfl, rfl, rfl, rfl, fun a elsewhere => readByte_storeAll_other _ s a elsewhere⟩

/-- Settles O47: the one store puts the next line at LY, and the position is taken by the phase. -/
theorem lineIncrementWrapsAt256 : Obligations.LineIncrementWrapsAt256 := by
  intro s
  have stored : readByte (storeAll [lineIncWrite s] s) s.params.aLY = nextLine (readByte s s.params.aLY) :=
    readByte_store_same (lineIncWrite s) s
  refine ⟨_, rfl, rfl, ?_, fun _ => readByte_store_other (lineIncWrite s) s,
    fun phase => ?_, fun phase => ?_⟩
  · exact (congrArg BitVec.toNat stored).trans (nextLine_toNat _)
  · simp only [goto_seq, phase]
  · simp only [goto_seq, phase]

/-- Settles O48: the line-level pause by bit 1 of the flags. -/
theorem linePause : Obligations.LinePause := fun _ hasDebug => pausePoint_outcomes hasDebug rfl

/-- Settles O49: the raised line is the sum below 255 and the free value at it, and decides the position by the phase. -/
theorem nextLineCountsTheFrame : Obligations.NextLineCountsTheFrame := fun _ =>
  ⟨_, rfl, rfl,
    fun below => ⟨raisedLine_toNat (line_toNat_lt_255 below), drawnByNextLine_below_255 below⟩,
    fun full => ⟨raisedLine_at_255 full, drawnByNextLine_at_255 full⟩,
    fun phase last => (nextLineTarget_visible phase _).trans (if_pos last),
    fun phase last => (nextLineTarget_tail phase _).trans (if_pos last),
    fun phase more => (nextLineTarget_visible phase _).trans (if_neg more),
    fun phase more => (nextLineTarget_tail phase _).trans (if_neg more)⟩

/-- Settles O50: the one store is `SetBit(A_IF, IF_VBLANK)`. -/
theorem vblankEntryRaisesTheRequest : Obligations.VblankEntryRaisesTheRequest := by
  intro s
  obtain ⟨t, ran⟩ := exec_next .vEntry s
  refine ⟨t, ran, ?_, fun j => ?_, fun a elsewhere => ?_⟩
  · cases ran; rfl
  · rw [vEntry_if ran, withBit_getLsbD]
  · cases ran; exact readByte_store_other (vblankWrite s) s elsewhere

/-- Settles O51: the screen-level pause by bit 2 of the flags. -/
theorem framePause : Obligations.FramePause := fun _ hasDebug => pausePoint_outcomes hasDebug rfl

/-- Settles O52: the micro-operation writes `in_frame` and the position. -/
theorem frameEndGoesIdle : Obligations.FrameEndGoesIdle := fun _ => rfl

end Sys2Proof.Proofs
end

section
/-!
PROOFS. The debug interface and the host (45_debug_host.md): NOP, CONT and IDLE (45 R250, R252, R256), what the host owns in
IDLE (45 R258), the continue channel that fails (45 R259), the block built without the debug instrumentation (45 R260), and
that the debug facilities do not perturb the machine (45 R257, 43 R208).
-/

namespace Sys2Proof.Machine

/-! ## The continue channel (45 R259) -/

/-- Where `paused` is legal, a paused block is held: it has the debug instrumentation (10 R30, 45 R260). -/
theorem PauseLegal.held_of_paused {s : State} (pause : PauseLegal s) (paused : s.paused = true) : held s = true := by
  obtain ⟨hasDebug, _⟩ := pause.1 paused
  rw [held_of_hasDebug hasDebug, paused]

theorem nextMove_contFail_held {s : State} {rest : List HostEvent} (h : s.host = .contFail :: rest) (hold : held s = true) :
    nextMove s = .host { s with host := rest, seq := .fatal } := by
  simp [nextMove, h, failContinue, hold]

/-- A failure outside a pause is ignored: the move is that of a quiet event. -/
theorem nextMove_contFail_free {s : State} {rest : List HostEvent} (h : s.host = .contFail :: rest) (free : held s = false) :
    nextMove s = performUop rest s := by
  simp [nextMove, h, failContinue, free]

/-! ## What the host owns while the block is idle (45 R258) -/

/-- The state after the host's write of the space or of a collaborator; none for its other events. -/
def ownedWrite (s : State) : HostEvent → Option State
  | .poke a v => some { s with ram := memWrite s.ram a v }
  | .setCpu c => some { s with cpu := c }
  | .setTimer p => some { s with timer := p }
  | .setInput p => some { s with input := p }
  | .setPpu p => some { s with ppu := p }
  | _ => none

section
variable {s moved : State} {e : HostEvent} {rest : List HostEvent} (presented : s.host = e :: rest)
  (owned : ownedWrite s e = some moved)

include presented owned

theorem nextMove_ownedWrite : nextMove s = ownedByHost s (withHost rest moved) := by
  cases e with
  | poke | setCpu | setTimer | setInput | setPpu => cases owned; simp only [nextMove, presented]; rfl
  | _ => cases owned

/-- The write is made in IDLE; elsewhere the host has no such move (93 U7). -/
theorem step_ownedWrite (wellFormed : s.params.wellFormed = true) :
    (s.seq = .idle → step s = .next (withHost rest moved)) ∧ (s.seq ≠ .idle → step s = .refused .hostMoveOutsideIdle) := by
  have move := nextMove_ownedWrite presented owned
  refine ⟨fun idle => step_host s _ wellFormed (move.trans (if_pos idle)), fun busy => ?_⟩
  have refused : nextMove s = .refuse .hostMoveOutsideIdle := move.trans (if_neg busy)
  simp [step, wellFormed, refused]

end

/-! ## CONT (45 R252) -/

/-- Where the block is not held, CONT is a NOP. -/
theorem releasePause_free {s : State} (free : held s = false) : releasePause s = s := by
  simp [releasePause, free]

/-- At a hold CONT clears `paused` and goes on with the successor (log entry 12). -/
theorem releasePause_held {s : State} (hold : held s = true) (ready : commandReady s .cont = true) :
    releasePause s = { s with paused := false, seq := pauseSuccessor s.seq } := by
  simp [releasePause, hold, ready]

/-- CONT at the pause point `u`. -/
theorem exec_cont_at {s : State} {u : Uop} (hasDebug : s.params.hasDebug = true) (paused : s.paused = true) (here : s.seq = u)
    (alive : u ≠ .fatal) : exec .cont s = .next { s with paused := false, seq := pauseSuccessor u } := by
  subst here
  have hold : held s = true := (held_of_hasDebug hasDebug).trans paused
  exact congrArg Host.Outcome.next (releasePause_held hold (commandReady_of_open (.inr ⟨paused, alive⟩) rfl))

/-! ## IDLE (45 R256) -/

theorem execIdle_presented {s : State} {w : Byte} {rest : List HostEvent} (presented : presentedWord s.host = some (w, rest)) :
    execIdle s = exec (decodeCmd w) { s with host := rest } := by
  simp [execIdle, presented, exec_command _ _ (instrUop_decodeCmd w)]

theorem execIdle_unpresented {s : State} (unpresented : presentedWord s.host = none) : execIdle s = .next s := by
  simp [execIdle, unpresented]

theorem presentedWord_eq_some {events rest : List HostEvent} {w : Byte} (presented : presentedWord events = some (w, rest)) :
    events = .cmd w :: rest ∨ events = .whenReady w :: rest := by
  unfold presentedWord at presented
  split at presented <;> cases presented
  · exact .inl rfl
  · exact .inr rfl

/-! ## A block without the debug instrumentation (45 R260) -/

section
variable {s : State} (production : s.params.hasDebug = false)

include production

theorem held_of_production : held s = false := by simp [held, production]

theorem liveFlags_of_production : liveFlags s = 0 := by simp [liveFlags, production]

theorem liveFlag_of_production (i : Nat) : (liveFlags s).getLsbD i = false := by
  rw [liveFlags_of_production production]
  exact BitVec.getLsbD_zero

theorem putFlags_of_production (arg : BitVec 4) : putFlags arg s = s := by simp [putFlags, production]

/-- A pause point on a flag falls through. -/
theorem pauseAt_of_production (p next : Uop) (i : Nat) :
    pauseAt p ((liveFlags s).getLsbD i) next s = { s with seq := next } := by
  rw [liveFlag_of_production production, pauseAt_passes (held_of_production production)]

end

end Sys2Proof.Machine

namespace Sys2Proof.Proofs

open Sys2Proof.Machine

/-- Settles O9: paused is held, where `paused` is legal; and where the block is not held, the failure gives the move of a
quiet event. -/
theorem continueFailureIsFatalOnlyWhilePaused : Obligations.ContinueFailureIsFatalOnlyWhilePaused := by
  intro s rest wellFormed pause fails
  refine ⟨fun paused => ?_, fun running => ?_⟩
  · exact step_host s _ wellFormed (nextMove_contFail_held fails (pause.held_of_paused paused))
  · exact step_eq_of_nextMove rfl (nextMove_contFail_free fails (held_of_running running))

/-- Settles O13: each of the five events is a write of what the host owns. -/
theorem hostWritesTheSpaceInIdleOnly : Obligations.HostWritesTheSpaceInIdleOnly := by
  intro s rest wellFormed
  refine ⟨fun a v h => ?_, fun _ h => step_ownedWrite h rfl wellFormed, fun _ h => step_ownedWrite h rfl wellFormed,
    fun _ h => step_ownedWrite h rfl wellFormed, fun _ h => step_ownedWrite h rfl wellFormed⟩
  obtain ⟨written, refused⟩ := step_ownedWrite h rfl wellFormed
  exact ⟨fun idle => ⟨_, written idle, rfl, memRead_memWrite_same s.ram a v, fun b => memRead_memWrite_other s.ram a b v⟩,
    refused⟩

/-- Settles O14: by the decoder for the words and the port's readiness for the taking. -/
theorem nopChangesNothing : Obligations.NopChangesNothing :=
  ⟨⟨rfl, decodeCmd_reserved⟩, fun _ => ⟨fun isOpen => commandReady_of_open isOpen rfl, rfl⟩⟩

/-- Settles O17: by the pause point the block is held at, and where it is not held CONT does nothing. -/
theorem contReleasesThePause : Obligations.ContReleasesThePause := fun _ hasDebug =>
  ⟨fun paused here => exec_cont_at hasDebug paused here (by decide),
    fun paused here => exec_cont_at hasDebug paused here (by decide),
    fun paused here => exec_cont_at hasDebug paused here (by decide),
    fun running => congrArg Host.Outcome.next (releasePause_free (held_of_running running))⟩

/-- Settles O19: by whether the host presents a word. -/
theorem idleAnswersThePresentedCommand : Obligations.IdleAnswersThePresentedCommand := by
  refine ⟨fun s notOnce notWaiting => ?_, fun s w rest _ presented => ?_⟩
  · cases word : presentedWord s.host with
    | none => exact execIdle_unpresented word
    | some taken =>
      rcases presentedWord_eq_some word with once | waiting
      · exact absurd once (notOnce _ _)
      · exact absurd waiting (notWaiting _ _)
  · refine execIdle_presented ?_
    rcases presented with once | waiting
    · rw [once]; rfl
    · rw [waiting]; rfl

/-- Settles O20: no flag is live and the block is never held, so that no pause point stops and no dump is made. -/
theorem productionBuildNeverPauses : Obligations.ProductionBuildNeverPauses := fun _ production =>
  ⟨fun arg => congrArg Host.Outcome.next (putFlags_of_production production arg),
    congrArg Host.Outcome.next (releasePause_free (held_of_production production)),
    exec_uSstep_passes (held_of_production production) (liveFlag_of_production production 0),
    congrArg Host.Outcome.next (pauseAt_of_production production _ _ 1),
    congrArg Host.Outcome.next (pauseAt_of_production production _ _ 2)⟩

end Sys2Proof.Proofs
end

section
/-!
PROOFS. The debug facilities do not perturb the machine (45 R257, 43 R208): the machine with the facilities taken out follows
every step, by what the move is (the sequencer's micro-operation, a taken word, a reset, a write of the host's).
-/

namespace Sys2Proof.Machine

/-! ## The machine without its debug facilities -/

/-- The debug registers at rest, no dump and an exhausted host; the position stays, so that a hold is not passed. -/
def bare (s : State) : State := { s with flags := 0, paused := false, host := [], dumps := [] }

theorem withoutDebug_of_held {s : State} (hold : held s = true) : withoutDebug s = goto (pauseSuccessor s.seq) (bare s) := by
  simp only [withoutDebug, hold, if_true, goto, bare]

theorem withoutDebug_of_free {s : State} (free : held s = false) : withoutDebug s = bare s := by
  simp only [withoutDebug, free, Bool.false_eq_true, if_false, bare]

theorem withoutDebug_of_running {s : State} (running : s.paused = false) : withoutDebug s = bare s :=
  withoutDebug_of_free (held_of_running running)

/-- A hold is taken out as the position it goes on to. -/
theorem withoutDebug_arrived {s : State} (hasDebug : s.params.hasDebug = true) (p : Uop) :
    withoutDebug { s with paused := true, seq := p } = goto (pauseSuccessor p) (bare s) :=
  withoutDebug_of_held (held_of_hasDebug hasDebug)

theorem liveFlag_bare (s : State) (i : Nat) : (liveFlags (bare s)).getLsbD i = false :=
  liveFlags_clear (s := bare s) BitVec.getLsbD_zero

/-! ## The micro-operations under the machine without debug facilities -/

/-- The three pause points (45 R253). -/
abbrev pausePoints : List Uop := [.uSstep, .lPause, .fPause]

theorem takeInterrupt_bare (s : State) : takeInterrupt (bare s) = bare (takeInterrupt s) := by
  cases source : dispatchSource s with
  | none => rw [takeInterrupt_none s source, takeInterrupt_none (bare s) source]
  | some i => rw [takeInterrupt_some s i source, takeInterrupt_some (bare s) i source]; rfl

/-- A micro-operation other than `IDLE` and the pause points reads no debug state and does not pause. -/
theorem exec_uop_bare {u : Uop} (busy : u ≠ .idle) (notPoint : u ∉ pausePoints) {s t : State}
    (ran : exec (uopInstr u) s = .next t) : exec (uopInstr u) (bare s) = .next (bare t) ∧ t.paused = s.paused := by
  cases u with
  | idle => exact absurd rfl busy
  | uSstep | lPause | fPause => exact absurd (by decide) notPoint
  | uIrq =>
    cases ran
    refine ⟨congrArg (Host.Outcome.next ∘ goto .uClrx) (takeInterrupt_bare s), ?_⟩
    rw [takeInterrupt_frame]; rfl
  | _ => cases ran; exact ⟨rfl, rfl⟩

/-- An arrival at a pause point, stopped or not, is with the pause taken out the passage to its successor. -/
theorem pauseAt_withoutDebug {s : State} {p : Uop} {flag : Bool} (running : s.paused = false)
    (live : flag = true → s.params.hasDebug = true) :
    withoutDebug (pauseAt p flag (pauseSuccessor p) s) = goto (pauseSuccessor p) (bare s) := by
  have free := held_of_running running
  cases flag with
  | true => rw [pauseAt_stops free, withoutDebug_arrived (live rfl)]
  | false => rw [pauseAt_passes free]; exact withoutDebug_of_running running

/-- A pause point with the debug facilities taken out falls through. -/
theorem exec_pausePoint_bare {p : Uop} (point : p ∈ pausePoints) (s : State) :
    exec (uopInstr p) (bare s) = .next (goto (pauseSuccessor p) (bare s)) := by
  have free : held (bare s) = false := held_of_running rfl
  have falls (i : Nat) : pauseAt p ((liveFlags (bare s)).getLsbD i) (pauseSuccessor p) (bare s)
      = goto (pauseSuccessor p) (bare s) := by
    rw [liveFlag_bare, pauseAt_passes free]; rfl
  cases p with
  | uSstep => exact exec_uSstep_passes free (liveFlag_bare s 0)
  | lPause => exact congrArg Host.Outcome.next (falls 1)
  | fPause => exact congrArg Host.Outcome.next (falls 2)
  | _ => simp at point

/-- Arriving at a pause point, the block writes what the passage to the successor writes, and debug state (45 R253, R254). -/
theorem exec_pausePoint_withoutDebug {p : Uop} (point : p ∈ pausePoints) {s t : State} (running : s.paused = false)
    (ran : exec (uopInstr p) s = .next t) : withoutDebug t = goto (pauseSuccessor p) (bare s) := by
  cases p with
  | uSstep =>
    cases ran
    rw [dumpOnArrival_frame]
    exact pauseAt_withoutDebug (s := { s with dumps := (dumpOnArrival s).dumps }) running hasDebug_of_liveFlags
  | lPause | fPause => cases ran; exact pauseAt_withoutDebug running hasDebug_of_liveFlags
  | _ => simp at point

/-- Where the block is not paused, a micro-operation is that of the machine without debug facilities. -/
theorem exec_uop_withoutDebug {u : Uop} (busy : u ≠ .idle) {s t : State} (running : s.paused = false)
    (ran : exec (uopInstr u) s = .next t) : exec (uopInstr u) (bare s) = .next (withoutDebug t) := by
  by_cases point : u ∈ pausePoints
  · rw [exec_pausePoint_bare point, exec_pausePoint_withoutDebug point running ran]
  · obtain ⟨follows, kept⟩ := exec_uop_bare busy point ran
    rw [follows, withoutDebug_of_running (kept.trans running)]

/-- Held, the micro-operation at `seq` changes nothing (45 R253, 60 R271). -/
theorem exec_uop_held {s : State} (hold : held s = true) (point : s.seq ∈ pausePositions) :
    exec (uopInstr s.seq) s = .next s := by
  cases here : s.seq with
  | uSstep => exact exec_uSstep_held hold
  | lPause | fPause => exact congrArg Host.Outcome.next (pauseAt_held hold _ _ _)
  | fatal => rfl
  | _ => simp [here] at point

/-! ## The step without debug facilities -/

/-- From `s` to `t` the debug facilities have not perturbed the machine (45 R257). -/
def Unperturbed (s t : State) : Prop :=
  (standsStill s → withoutDebug t = withoutDebug s)
    ∧ (¬ standsStill s → step (withHost (debugFreeEvents s) (withoutDebug s)) = .next (withoutDebug t))

/-- A step under an event of the host's that the machine without debug facilities is given too. -/
theorem Unperturbed.of_event {s t : State} {e : HostEvent} (event : debugFreeEvents s = [e])
    (follows : step (withHost [e] (withoutDebug s)) = .next (withoutDebug t)) : Unperturbed s t :=
  ⟨fun still => absurd (event.symm.trans still.2) (List.cons_ne_nil _ _), fun _ => event ▸ follows⟩

section
variable {s t : State} (wellFormed : s.params.wellFormed = true)

include wellFormed

/-- Its host is exhausted, so that the machine without debug facilities performs the micro-operation at `seq`. -/
theorem step_bare : step (bare s) = exec (uopInstr s.seq) (bare s) :=
  step_run (bare s) _ _ wellFormed (nextMove_exhausted _ rfl)

/-- A step in a hold or in IDLE that leaves the machine as it is, with nothing from the host but debug commands. -/
theorem Unperturbed.of_still (silent : debugFreeEvents s = []) (atRest : held s = true ∨ s.seq = .idle)
    (same : withoutDebug t = withoutDebug s) : Unperturbed s t := by
  refine ⟨fun _ => same, fun moves => ?_⟩
  have free : held s = false := Bool.eq_false_iff.mpr fun hold => moves ⟨hold, silent⟩
  have idle : s.seq = .idle := atRest.resolve_left (Bool.eq_false_iff.mp free)
  rw [silent, same, withoutDebug_of_free free]
  exact (step_bare wellFormed).trans (by rw [idle]; rfl)

/-- The sequencer's own step, held, in IDLE or moving on. -/
theorem Unperturbed.of_uop (pause : PauseLegal s) (silent : debugFreeEvents s = []) {rest : List HostEvent}
    (exhausted : s.seq = .idle → rest = []) (ran : exec (uopInstr s.seq) (withHost rest s) = .next t) : Unperturbed s t := by
  cases hold : held s with
  | true =>
    obtain ⟨_, point⟩ := pause.1 (paused_of_held hold)
    have stays : exec (uopInstr s.seq) (withHost rest s) = _ := exec_uop_held (s := withHost rest s) hold point
    cases stays.symm.trans ran
    exact .of_still wellFormed silent (.inl hold) rfl
  | false =>
    by_cases idle : s.seq = .idle
    · rw [idle, exhausted idle] at ran
      cases ran
      exact .of_still wellFormed silent (.inr idle) rfl
    · refine ⟨fun still => absurd (hold.symm.trans still.1) Bool.false_ne_true, fun _ => ?_⟩
      rw [silent, withoutDebug_of_free hold]
      have running := pause.running_of_not_held hold
      exact (step_bare wellFormed).trans (exec_uop_withoutDebug (s := withHost rest s) idle running ran)

end

/-! ## The host's events less the debug commands (45 R257) -/

theorem movingWord_untaken {s : State} {w : Byte} (untaken : commandReady s (decodeCmd w) = false) : movingWord s w = [] := by
  simp [movingWord, untaken]

/-- NOP, CONT, SETFLAGS and the reserved words, the ones taken while paused, do not move the machine. -/
theorem movingWord_debug (s : State) {w : Byte} (debug : takenWhilePaused (decodeCmd w) = true) : movingWord s w = [] := by
  cases decoded : decodeCmd w <;> simp [movingWord, decoded, takenWhilePaused] at debug ⊢

theorem movingWord_moving {s : State} {w : Byte} (ready : commandReady s (decodeCmd w) = true)
    (moving : takenWhilePaused (decodeCmd w) = false) : movingWord s w = [.cmd w] := by
  cases decoded : decodeCmd w <;> simp [movingWord, decoded, takenWhilePaused] at ready moving ⊢
  all_goals exact ready

theorem debugFreeEvents_presented {s : State} {w : Byte} {rest : List HostEvent}
    (presented : s.host = .cmd w :: rest ∨ s.host = .whenReady w :: rest) : debugFreeEvents s = movingWord s w := by
  rcases presented with once | waiting
  · simp only [debugFreeEvents, once]
  · simp only [debugFreeEvents, waiting]

/-- No command word is a micro-operation (30 R107). -/
theorem decodeCmd_ne_uopInstr (w : Byte) (u : Uop) : decodeCmd w ≠ uopInstr u := by
  intro same
  have command := instrUop_decodeCmd w
  rw [same] at command
  cases u <;> cases command

theorem ownedByHost_ne_run {s s' moved : State} {i : Instr} : ownedByHost s moved ≠ .run i s' := by
  unfold ownedByHost
  split <;> exact Move.noConfusion

/-- Where the sequencer performs its micro-operation, the machine without debug facilities is given nothing. -/
theorem debugFreeEvents_of_uop {s s' : State} {u : Uop} (move : nextMove s = .run (uopInstr u) s') :
    debugFreeEvents s = [] := by
  have untaken {w : Byte} {taken : State}
      (takes : commandReady s (decodeCmd w) = true → nextMove s = .run (decodeCmd w) taken) : commandReady s (decodeCmd w) = false := by
    refine Bool.eq_false_iff.mpr fun ready => ?_
    injection (takes ready).symm.trans move with same
    exact decodeCmd_ne_uopInstr w u same
  cases host : s.host with
  | nil => simp only [debugFreeEvents, host]
  | cons e rest =>
    cases e with
    | quiet | contFail => simp only [debugFreeEvents, host]
    | cmd w => rw [debugFreeEvents_presented (.inl host), movingWord_untaken (untaken (nextMove_cmd_taken host))]
    | whenReady w => rw [debugFreeEvents_presented (.inr host), movingWord_untaken (untaken (nextMove_whenReady_taken host))]
    | rst | buttons => simp [nextMove, host] at move
    | poke | setCpu | setTimer | setInput | setPpu =>
      exact absurd ((nextMove_ownedWrite host rfl).symm.trans move) ownedByHost_ne_run

/-! ## The taken words -/

/-- NOP, CONT, SETFLAGS and the reserved words write debug state, and what CONT goes on to is the hold taken out. -/
theorem commandEffect_debug_withoutDebug {i : Instr} (debug : takenWhilePaused i = true) (s : State) :
    withoutDebug (commandEffect i s) = withoutDebug s := by
  cases i with
  | step | frame => cases debug
  | cont =>
    cases hold : held s with
    | false => exact congrArg withoutDebug (releasePause_free hold)
    | true =>
      cases ready : commandReady s .cont with
      | false => simp [commandEffect, releasePause, ready]
      | true =>
        rw [commandEffect, releasePause_held hold ready, withoutDebug_of_running rfl, withoutDebug_of_held hold]
        rfl
  | setflags arg => simp only [commandEffect, putFlags]; split <;> rfl
  | _ => rfl

/-- STEP and FRAME in IDLE do the same without debug facilities. -/
theorem commandEffect_moving_bare {i : Instr} (moving : takenWhilePaused i = false) {s : State} (idle : s.seq = .idle) :
    commandEffect i (bare s) = bare (commandEffect i s) := by
  cases i with
  | step => simp only [commandEffect, beginStep_idle idle, beginStep_idle (s := bare s) idle]; rfl
  | frame => simp only [commandEffect, beginFrame_idle idle, beginFrame_idle (s := bare s) idle]; rfl
  | _ => cases moving

/-- STEP and FRAME leave `paused` as it is. -/
theorem commandEffect_moving_paused {i : Instr} (moving : takenWhilePaused i = false) (s : State) :
    (commandEffect i s).paused = s.paused := by
  cases i with
  | step => simp only [commandEffect, beginStep]; split <;> rfl
  | frame => simp only [commandEffect, beginFrame]; split <;> rfl
  | _ => cases moving

/-- A block that takes a word is held or in IDLE (30 R93). -/
theorem PauseLegal.held_or_idle {s : State} (pause : PauseLegal s) {i : Instr} (ready : commandReady s i = true) :
    held s = true ∨ s.seq = .idle := by
  by_cases idle : s.seq = .idle
  · exact .inr idle
  · refine .inl (Bool.of_not_eq_false fun free => ?_)
    simp [commandReady_running idle (pause.running_of_not_held free)] at ready

/-- A taken word: STEP and FRAME move both machines, the others neither. -/
theorem Unperturbed.of_word {s : State} (wellFormed : s.params.wellFormed = true) (pause : PauseLegal s) {w : Byte}
    {rest : List HostEvent} (presented : s.host = .cmd w :: rest ∨ s.host = .whenReady w :: rest)
    (ready : commandReady s (decodeCmd w) = true) :
    Unperturbed s (commandEffect (decodeCmd w) (withHost rest s)) := by
  cases moving : takenWhilePaused (decodeCmd w) with
  | true =>
    exact .of_still wellFormed ((debugFreeEvents_presented presented).trans (movingWord_debug s moving))
      (pause.held_or_idle ready) (commandEffect_debug_withoutDebug moving (withHost rest s))
  | false =>
    have idle := idle_of_ready ready moving
    have running := pause.running (by simp [idle])
    have readyBare : commandReady (withHost [.cmd w] (bare s)) (decodeCmd w) = true :=
      commandReady_idle (s := withHost [.cmd w] (bare s)) idle _
    have runs : step (withHost [.cmd w] (bare s)) = .next (commandEffect (decodeCmd w) (bare s)) :=
      (step_run (withHost [.cmd w] (bare s)) _ _ wellFormed (nextMove_cmd_taken rfl readyBare)).trans
        (exec_command _ _ (instrUop_decodeCmd w))
    refine .of_event ((debugFreeEvents_presented presented).trans (movingWord_moving ready moving)) ?_
    rw [withoutDebug_of_running running, runs,
      withoutDebug_of_running ((commandEffect_moving_paused moving (withHost rest s)).trans running)]
    exact congrArg Host.Outcome.next (commandEffect_moving_bare (s := withHost rest s) moving idle)

/-! ## A reset (70 R310) -/

theorem uopWrites_pausePosition {s : State} (point : s.seq ∈ pausePositions) : uopWrites s = [] := by
  cases here : s.seq with
  | uSstep | lPause | fPause | fatal => simp only [uopWrites, here]
  | _ => simp [here] at point

theorem pausePositions_call_nothing :
    ∀ u ∈ pausePositions, callsCpu u = false ∧ u ≠ .uTimer ∧ u ≠ .uInput ∧ u ≠ .lCommit := by decide

/-- At a pause point and in FATAL there is nothing that a reset could cut short. -/
theorem abandonUop_pausePosition {s : State} (point : s.seq ∈ pausePositions) (k : Nat) : abandonUop k s = s := by
  obtain ⟨cpu, timer, input, ppu⟩ := pausePositions_call_nothing s.seq point
  simp [abandonUop, uopWrites_pausePosition point, storeAll, cpu, timer, input, ppu]

theorem applyReset_bare (inside : Option Nat) (s : State) : applyReset inside (bare s) = bare (applyReset inside s) := by
  cases inside <;> rfl

theorem applyReset_paused (inside : Option Nat) (s : State) : (applyReset inside s).paused = false := by
  cases inside <;> rfl

/-- Held, a reset falls between two micro-operations. -/
theorem applyReset_held {s : State} (point : s.seq ∈ pausePositions) (inside : Option Nat) :
    applyReset inside s = applyReset none s := by
  cases inside with
  | none => rfl
  | some k => exact congrArg resetRegisters (abandonUop_pausePosition point k)

/-- A reset of the machine without debug facilities, between two micro-operations where the block is held. -/
theorem applyReset_withoutDebug {s : State} (pause : PauseLegal s) (inside : Option Nat) :
    applyReset (if held s then none else inside) (withoutDebug s) = withoutDebug (applyReset inside s) := by
  rw [withoutDebug_of_running (applyReset_paused inside s)]
  cases hold : held s with
  | false => rw [withoutDebug_of_free hold]; exact applyReset_bare inside s
  | true =>
    obtain ⟨_, point⟩ := pause.1 (paused_of_held hold)
    rw [withoutDebug_of_held hold, applyReset_held point]
    rfl

theorem Unperturbed.of_reset {s : State} (wellFormed : s.params.wellFormed = true) (pause : PauseLegal s)
    {inside : Option Nat} {rest : List HostEvent} (resets : s.host = .rst inside :: rest) :
    Unperturbed s (applyReset inside (withHost rest s)) := by
  refine .of_event (e := .rst (if held s then none else inside)) (by simp only [debugFreeEvents, resets]) ?_
  refine (step_host (withHost [.rst _] (withoutDebug s)) _ wellFormed rfl).trans (congrArg Host.Outcome.next ?_)
  exact applyReset_withoutDebug (s := withHost rest s) pause inside

/-! ## What the host drives and owns (44 R232, 45 R258) -/

theorem Unperturbed.of_buttons {s : State} (wellFormed : s.params.wellFormed = true) {c : ControllerState}
    {rest : List HostEvent} (drives : s.host = .buttons c :: rest) :
    Unperturbed s { s with host := rest, controller := c } :=
  .of_event (e := .buttons c) (by simp only [debugFreeEvents, drives])
    (step_host (withHost [.buttons c] (withoutDebug s)) _ wellFormed rfl)

/-- A write of the host's goes to no debug state and reads none. -/
theorem ownedWrite_bare {s moved : State} {e : HostEvent} (owned : ownedWrite s e = some moved) (events : List HostEvent) :
    ownedWrite (withHost events (bare s)) e = some (withHost events (bare moved)) ∧ moved.paused = s.paused := by
  cases e with
  | poke | setCpu | setTimer | setInput | setPpu => cases owned; exact ⟨rfl, rfl⟩
  | _ => cases owned

theorem debugFreeEvents_ownedWrite {s moved : State} {e : HostEvent} {rest : List HostEvent} (presented : s.host = e :: rest)
    (owned : ownedWrite s e = some moved) : debugFreeEvents s = [e] := by
  cases e with
  | poke | setCpu | setTimer | setInput | setPpu => simp only [debugFreeEvents, presented]
  | _ => cases owned

/-- A write of the host's in IDLE, where the block is not paused, is made in both machines. -/
theorem Unperturbed.of_ownedWrite {s moved : State} (wellFormed : s.params.wellFormed = true) (pause : PauseLegal s)
    (idle : s.seq = .idle) {e : HostEvent} {rest : List HostEvent} (presented : s.host = e :: rest)
    (owned : ownedWrite s e = some moved) : Unperturbed s (withHost rest moved) := by
  have running := pause.running (by simp [idle])
  obtain ⟨ownedBare, kept⟩ := ownedWrite_bare owned [e]
  obtain ⟨written, _⟩ := step_ownedWrite (s := withHost [e] (bare s)) rfl ownedBare wellFormed
  refine .of_event (debugFreeEvents_ownedWrite presented owned) ?_
  rw [withoutDebug_of_running running, withoutDebug_of_running (s := withHost rest moved) (kept.trans running)]
  exact written idle

/-! ## Every move -/

theorem Unperturbed.of_run {s s' t : State} {i : Instr} (wellFormed : s.params.wellFormed = true) (pause : PauseLegal s)
    (move : nextMove s = .run i s') (ran : exec i s' = .next t) : Unperturbed s t := by
  obtain ⟨rest, rfl, ⟨rfl, exhausted⟩ | ⟨w, rfl, ready, presented⟩⟩ := nextMove_run_cases s s' i move
  · exact .of_uop wellFormed pause (debugFreeEvents_of_uop move) (fun idle => (exhausted idle).2) ran
  · rw [exec_command _ _ (instrUop_decodeCmd w)] at ran
    cases ran
    exact .of_word wellFormed pause presented ready

theorem Unperturbed.of_host {s t : State} (wellFormed : s.params.wellFormed = true) (pause : PauseLegal s)
    (continues : ¬ continueFails s) (move : nextMove s = .host t) : Unperturbed s t := by
  rcases nextMove_host_cases s t move with
    ⟨rest, fails, hold, rfl⟩ | ⟨_, _, resets, rfl⟩ | ⟨_, _, drives, rfl⟩ | ⟨idle, _, _, presented, written⟩
  · exact absurd ⟨hold, rest, fails⟩ continues
  · exact .of_reset wellFormed pause resets
  · exact .of_buttons wellFormed drives
  · rcases written with ⟨rfl | rfl, rfl⟩ | ⟨_, _, rfl, rfl⟩ | ⟨_, rfl, rfl⟩ | ⟨_, rfl, rfl⟩ | ⟨_, rfl, rfl⟩ | ⟨_, rfl, rfl⟩
    · exact .of_still wellFormed (by simp only [debugFreeEvents, presented]) (.inr idle) rfl
    · exact .of_still wellFormed (by simp only [debugFreeEvents, presented]) (.inr idle) rfl
    all_goals exact .of_ownedWrite wellFormed pause idle presented rfl

end Sys2Proof.Machine

namespace Sys2Proof.Proofs

open Sys2Proof.Machine

/-- Settles O59: each move of a step, an operation run or a move of the host's, leaves the machine unperturbed; of the
invariant only the legality of `paused` is needed. -/
theorem debugDoesNotPerturbTheMachine : Obligations.DebugDoesNotPerturbTheMachine := by
  intro s t legal continues stepped
  change Unperturbed s t
  obtain ⟨wellFormed, ⟨i, s', move, ran⟩ | move⟩ := step_cases s t stepped
  · exact .of_run wellFormed legal.pause move ran
  · exact .of_host wellFormed legal.pause continues move

end Sys2Proof.Proofs
end

section
/-!
PROOFS. Interrupts and FATAL (60_exceptions.md): which source a dispatch takes (60 R276, R279), what taking it stores and
sets (60 R277 to R281), and that nothing but a reset leaves FATAL (60 R271).
-/

namespace Sys2Proof.Machine

/-! ## Which source is taken (60 R276, R279) -/

/-- The mask `0x1F` keeps the bits of the five sources (60 R272). -/
theorem sourceMask_getLsbD : ∀ j : Fin 5, (0x1F : Byte).getLsbD j.val = true := by decide

/-- A source is pending where it is both enabled and requested. -/
theorem pendingSources_getLsbD (s : State) (j : Fin 5) :
    (pendingSources s.params s.ram).getLsbD j.val
      = ((readByte s s.params.aIE).getLsbD j.val && (readByte s s.params.aIF).getLsbD j.val) := by
  simp only [pendingSources, readByte, BitVec.getLsbD_and, sourceMask_getLsbD, Bool.and_true]

/-- Only the five sources are pending. -/
theorem pendingSources_masked (p : Params) (ram : Memory) : pendingSources p ram &&& 0x1F = pendingSources p ram := by
  rw [pendingSources, BitVec.and_assoc, BitVec.and_self]

theorem dispatchSource_eq_some (s : State) (i : Fin 5) :
    dispatchSource s = some i ↔ s.cpu.ime = true ∧ leastSource (pendingSources s.params s.ram) = some i := by
  cases ime : s.cpu.ime <;> simp [dispatchSource, ime]

theorem dispatchSource_eq_none (s : State) :
    dispatchSource s = none ↔ s.cpu.ime = false ∨ pendingSources s.params s.ram = 0 := by
  cases ime : s.cpu.ime
  · simp [dispatchSource, ime]
  · simp only [dispatchSource, ime, if_true, leastSource_eq_none, pendingSources_masked, Bool.true_eq_false, false_or]

/-! ## What taking source `i` stores (60 R277) -/

/-- The two bytes of the return address go to different places, the stack pointer wrapping too. -/
theorem pushes_apart (sp : Addr) : sp - 1 ≠ sp - 2 := by bv_omega

/-- The low byte of the return address is stored last. -/
theorem memRead_interruptWrites_low (i : Fin 5) (s : State) :
    memRead (memWriteAll s.ram (interruptWrites i s)) (s.cpu.sp - 2) = lowByte s.cpu.pc :=
  memRead_memWrite_same _ _ _

theorem memRead_interruptWrites_high (i : Fin 5) (s : State) :
    memRead (memWriteAll s.ram (interruptWrites i s)) (s.cpu.sp - 1) = highByte s.cpu.pc :=
  (memRead_memWrite_other _ _ _ _ (pushes_apart s.cpu.sp)).trans (memRead_memWrite_same _ _ _)

/-- Where neither push lands on IF, the byte there is the one read with the request bit cleared. -/
theorem memRead_interruptWrites_if (i : Fin 5) {s : State} (notHigh : s.params.aIF ≠ s.cpu.sp - 1)
    (notLow : s.params.aIF ≠ s.cpu.sp - 2) :
    memRead (memWriteAll s.ram (interruptWrites i s)) s.params.aIF
      = withoutBit (readByte s s.params.aIF) (sourceBit i) := by
  simp only [interruptWrites, memWriteAll_cons, memWriteAll_nil, memRead_memWrite_other _ _ _ _ notLow,
    memRead_memWrite_other _ _ _ _ notHigh, memRead_memWrite_same]

theorem notStored_interruptWrites (i : Fin 5) {s : State} {a : Addr} (notIf : a ≠ s.params.aIF)
    (notHigh : a ≠ s.cpu.sp - 1) (notLow : a ≠ s.cpu.sp - 2) : notStored (interruptWrites i s) a := by
  simp only [notStored, interruptWrites, List.forall_mem_cons]
  exact ⟨notIf.symm, notHigh.symm, notLow.symm, List.forall_mem_nil _⟩

/-! ## `U_IRQ` (41 R131) -/

/-- The vector as a product of words (60 R278): none of the five wraps. -/
theorem vector_eq : ∀ i : Fin 5, vector i = 0x0040 + 8 * BitVec.ofNat 16 i.val := by decide

theorem exec_uIrq_some {s : State} {i : Fin 5} (source : dispatchSource s = some i) :
    exec .uIrq s = .next { s with
      ram := memWriteAll s.ram (interruptWrites i s)
      cpu := { s.cpu with pc := 0x0040 + 8 * BitVec.ofNat 16 i.val, sp := s.cpu.sp - 2, ime := false }
      seq := .uClrx } := by
  rw [← vector_eq]
  exact congrArg (Host.Outcome.next ∘ goto .uClrx) (takeInterrupt_some s i source)

theorem exec_uIrq_none {s : State} (source : dispatchSource s = none) : exec .uIrq s = .next { s with seq := .uClrx } :=
  congrArg (Host.Outcome.next ∘ goto .uClrx) (takeInterrupt_none s source)

/-! ## FATAL (60 R271) -/

/-- What the sequencer runs at FATAL: the self-loop, since no word is taken there (30 R93). -/
theorem nextMove_run_fatal {s s' : State} {i : Instr} (fatal : s.seq = .fatal) (move : nextMove s = .run i s') :
    i = .fatal ∧ ∃ rest, s' = { s with host := rest } := by
  obtain ⟨rest, rfl, ⟨rfl, _⟩ | ⟨_, _, ready, _⟩⟩ := nextMove_run_cases s s' i move
  · exact ⟨congrArg uopInstr fatal, rest, rfl⟩
  · exact absurd ready (Bool.eq_false_iff.mp (commandReady_fatal fatal i))

/-- What the host can do at FATAL: reset the block, or use up an event that changes at most the controller. -/
theorem nextMove_host_fatal {s t : State} (fatal : s.seq = .fatal) (move : nextMove s = .host t) :
    (∃ inside rest, s.host = .rst inside :: rest) ∨ t = { s with host := t.host, controller := t.controller } := by
  rcases nextMove_host_cases s t move with
    ⟨_, _, _, rfl⟩ | ⟨inside, rest, resets, _⟩ | ⟨_, _, _, rfl⟩ | ⟨idle, _⟩
  · exact .inr (by rw [← fatal])
  · exact .inl ⟨inside, rest, resets⟩
  · exact .inr rfl
  · exact absurd (idle.symm.trans fatal) (by decide)

end Sys2Proof.Machine

namespace Sys2Proof.Proofs

open Sys2Proof.Machine

/-- Settles O10: at FATAL a step is the self-loop or a move of the host's. -/
theorem onlyResetLeavesFatal : Obligations.OnlyResetLeavesFatal := by
  refine ⟨fun _ => rfl, fun s t fatal stepped => ?_⟩
  obtain ⟨_, ⟨i, s', move, ran⟩ | move⟩ := step_cases s t stepped
  · obtain ⟨rfl, rest, rfl⟩ := nextMove_run_fatal fatal move
    cases ran
    exact .inr rfl
  · exact nextMove_host_fatal fatal move

/-- Settles O21: the three stores are read back one by one, the later ones told apart from the earlier. -/
theorem interruptDispatchSavesAndVectors : Obligations.InterruptDispatchSavesAndVectors := by
  intro s i source
  refine ⟨_, exec_uIrq_some source, rfl, memRead_interruptWrites_high i s, memRead_interruptWrites_low i s,
    fun notHigh notLow j => ?_, fun a notIf notHigh notLow => ?_⟩
  · have cleared := congrArg (BitVec.getLsbD · j.val) (memRead_interruptWrites_if i notHigh notLow)
    refine cleared.trans ((withoutBit_getLsbD _ (sourceBit i) j).trans ?_)
    simp only [ne_eq, Fin.ext_iff, sourceBit]
  · exact memRead_memWriteAll_other _ _ _ (notStored_interruptWrites i notIf notHigh notLow)

/-- Settles O23: the least pending source, each pending bit being the conjunction of IE's and IF's. -/
theorem dispatchTakesTheLowestPendingSource : Obligations.DispatchTakesTheLowestPendingSource := by
  intro s i
  simp only [dispatchSource_eq_some, leastSource_eq_some, pendingSources_getLsbD, Bool.and_eq_true, and_assoc]

/-- Settles O22: with the master enable clear or nothing pending there is no source to take. -/
theorem noDispatchChangesNothing : Obligations.NoDispatchChangesNothing :=
  fun s nothing => exec_uIrq_none ((dispatchSource_eq_none s).mpr nothing)

end Sys2Proof.Proofs
end

section
/-!
PROOFS. Reset (70_reset_and_hazards.md): every register at its reset value from any state (70 R310, R312, R313), and the stores
that a reset inside an observation leaves made (70 R316).
-/

namespace Sys2Proof.Machine

/-! ## The reset input as a move of the host's (70 R310) -/

theorem nextMove_rst {s : State} {inside : Option Nat} {rest : List HostEvent} (resets : s.host = .rst inside :: rest) :
    nextMove s = .host (applyReset inside (withHost rest s)) := by
  simp only [nextMove, resets, withHost]

theorem step_rst {s : State} {inside : Option Nat} {rest : List HostEvent} (wellFormed : s.params.wellFormed = true)
    (resets : s.host = .rst inside :: rest) : step s = .next (applyReset inside (withHost rest s)) :=
  step_host s _ wellFormed (nextMove_rst resets)

/-! ## A reset inside `M_EVAL` (70 R316, 42 R162) -/

/-- `M_EVAL` calls no collaborator, so that only its stores are cut short. -/
theorem abandonUop_mEval {s : State} (here : s.seq = .mEval) (k : Nat) :
    abandonUop k s = storeAll ((observationWrites s).take k) s := by
  simp [abandonUop, uopWrites, callsCpu, here, storeAll]

/-- The first store of an observation is the mode field's. -/
theorem observationWrites_take_one (s : State) : (observationWrites s).take 1 = [modeFieldWrite s] := by
  unfold observationWrites
  split <;> rfl

/-- An observation makes no more than two stores. -/
theorem observationWrites_take_all (s : State) {k : Nat} (all : 2 ≤ k) :
    (observationWrites s).take k = observationWrites s := by
  refine List.take_of_length_le (Nat.le_trans ?_ all)
  unfold observationWrites
  split <;> simp

/-- After the first store alone STAT is as the whole observation leaves it, and every other byte as it was. -/
theorem memRead_ramAfterModeField {s t : State} (ran : exec .mEval s = .next t) (wellFormed : s.params.wellFormed = true)
    (a : Addr) : memRead (ramAfterModeField s) a = if a = s.params.aSTAT then readByte t a else readByte s a := by
  split
  · rename_i stat
    rw [stat, mEval_stat ran wellFormed]
    exact memRead_memWrite_same s.ram s.params.aSTAT _
  · rename_i elsewhere
    exact memRead_ramAfterModeField_other elsewhere

end Sys2Proof.Machine

namespace Sys2Proof.Proofs

open Sys2Proof.Machine

/-- Settles O11: whether or not a micro-operation is cut short, `resetRegisters` comes last. -/
theorem resetInAnyState : Obligations.ResetInAnyState := by
  intro s inside rest wellFormed resets
  refine ⟨_, step_rst wellFormed resets, ?_⟩
  cases inside with
  | none => exact ⟨rfl, rfl, rfl, rfl, rfl, rfl, rfl, rfl, rfl, rfl, rfl, fun _ => ⟨rfl, rfl, rfl, rfl, rfl⟩⟩
  | some k => exact ⟨rfl, rfl, rfl, rfl, rfl, rfl, rfl, rfl, rfl, rfl, rfl, fun between => nomatch between⟩

/-- Settles O12: none, the first or all of the observation's stores stand, and no collaborator was being called. -/
theorem resetInsideObservationKeepsItsStores : Obligations.ResetInsideObservationKeepsItsStores := by
  intro s k rest wellFormed here resets
  obtain ⟨u, ran⟩ := exec_next .mEval s
  have cut : applyReset (some k) (withHost rest s)
      = resetRegisters (storeAll ((observationWrites s).take k) (withHost rest s)) :=
    congrArg resetRegisters (abandonUop_mEval (s := withHost rest s) here k)
  refine ⟨_, u, (step_rst wellFormed resets).trans (congrArg Host.Outcome.next cut), ran, rfl, fun nothing a => ?_,
    fun one a => ?_, fun all a => ?_, rfl, rfl, rfl, rfl⟩
  · rw [nothing]; rfl
  · rw [one, observationWrites_take_one, ← memRead_ramAfterModeField ran wellFormed a]; rfl
  · rw [observationWrites_take_all s all, mEval_readByte ran]; rfl

end Sys2Proof.Proofs
end

section
/-!
PROOFS. A frame ends (70_reset_and_hazards.md, 70 R327): the run of a frame that nothing disturbs, the measure each of its
micro-operations lowers, and the steps it has retired against the cycles of its lines.
-/

namespace Sys2Proof.Machine

/-! ## The micro-operations of a frame where nothing pauses (45 R253) -/

/-- With no flag set a pause point the block is not held at falls through. -/
theorem exec_pausePoint_unflagged {p : Uop} (point : p ∈ pausePoints) {s : State} (running : s.paused = false)
    (unflagged : s.flags = 0) : exec (uopInstr p) s = .next (goto (pauseSuccessor p) s) := by
  have clear (i : Nat) : s.flags.getLsbD i = false := by rw [unflagged, BitVec.ofNat_eq_ofNat, BitVec.getLsbD_zero]
  cases p with
  | uSstep => exact exec_uSstep_passes (held_of_running running) (liveFlags_clear (clear 0))
  | lPause => exact congrArg Host.Outcome.next (pauseAt_liveFlag_clear running (clear 1) _ _)
  | fPause => exact congrArg Host.Outcome.next (pauseAt_liveFlag_clear running (clear 2) _ _)
  | _ => simp at point

/-- What the rest of the frame depends on beside the invariant: inside a frame, a quiet host, no pause and no flag. -/
structure Undisturbed (s : State) : Prop where
  inside : s.inFrame = true
  quiet : s.host = []
  running : s.paused = false
  unflagged : s.flags = 0

/-- The positions a frame's micro-operation can go on to where nothing pauses (41 R142, 43 R191 to R202). -/
def followers : Uop → List Uop
  | .uRetire => [.mEval]
  | .mEval | .lEntry => [.lTest]
  | .lTest => [.uIrq, .lCommit, .lInc]
  | .lCommit => [.lInc]
  | .lInc => [.lPause, .lNext]
  | .lPause => [.lNext]
  | .lNext => [.vEntry, .lEntry, .fPause]
  | .vEntry => [.lEntry]
  | .fPause => [.fEnd]
  | u => [nextInStep u]

theorem lineTestTarget_mem (s : State) : lineTestTarget s ∈ followers .lTest := by
  unfold lineTestTarget
  split
  · decide
  · split <;> decide

theorem nextLineTarget_mem (s : State) (n : BitVec 8) : nextLineTarget s n ∈ followers .lNext := by
  unfold nextLineTarget
  split <;> split <;> decide

/-- The positions outside a frame, and its last. -/
abbrev frameEnds : List Uop := [.idle, .fStart, .fEnd, .fatal]

/-- What every micro-operation `u` of an undisturbed frame before its last keeps, and where it goes on to. -/
structure FrameMove (u : Uop) (s t : State) : Prop where
  undisturbed : Undisturbed t
  follows : t.seq ∈ followers u
  line : u ≠ .lNext → t.line = s.line
  counter : u ≠ .uAcc → u ≠ .lEntry → t.scanlineCycleCounter = s.scanlineCycleCounter

theorem Undisturbed.exec_uop {s t : State} (undisturbed : Undisturbed s) {u : Uop} (goesOn : u ∉ frameEnds)
    (ran : exec (uopInstr u) s = .next t) : FrameMove u s t := by
  obtain ⟨inside, quiet, running, unflagged⟩ := undisturbed
  cases u with
  | idle | fStart | fEnd | fatal => exact absurd (by decide) goesOn
  | uIrq =>
    cases ran
    rw [takeInterrupt_frame]
    exact ⟨⟨inside, quiet, running, unflagged⟩, .head _, fun _ => rfl, fun _ _ => rfl⟩
  | uSstep | lPause | fPause =>
    rw [exec_pausePoint_unflagged (by decide) running unflagged] at ran
    cases ran
    exact ⟨⟨inside, quiet, running, unflagged⟩, .head _, fun _ => rfl, fun _ _ => rfl⟩
  | uAcc => cases ran; exact ⟨⟨inside, quiet, running, unflagged⟩, .head _, fun _ => rfl, fun other => absurd rfl other⟩
  | lEntry =>
    cases ran
    exact ⟨⟨inside, quiet, running, unflagged⟩, .head _, fun _ => rfl, fun _ other => absurd rfl other⟩
  | uRetire =>
    cases ran
    exact ⟨⟨inside, quiet, running, unflagged⟩, by simp [inside, followers], fun _ => rfl, fun _ _ => rfl⟩
  | lTest => cases ran; exact ⟨⟨inside, quiet, running, unflagged⟩, lineTestTarget_mem s, fun _ => rfl, fun _ _ => rfl⟩
  | lInc =>
    cases ran
    refine ⟨⟨inside, quiet, running, unflagged⟩, ?_, fun _ => rfl, fun _ _ => rfl⟩
    cases phase : s.phase <;> simp [followers]
  | lNext =>
    cases ran
    exact ⟨⟨inside, quiet, running, unflagged⟩, nextLineTarget_mem s _, fun other => absurd rfl other, fun _ _ => rfl⟩
  | uClrx | uFetch | uTimer | uInput | uIme | uExec | uDma | mEval | lCommit | vEntry =>
    cases ran
    exact ⟨⟨inside, quiet, running, unflagged⟩, .head _, fun _ => rfl, fun _ _ => rfl⟩

/-! ## The cost of the instruction under way (41 R132, R133, R135) -/

/-- From `U_CLRX` on the cost that `U_ACC` will add is at least one cycle. -/
def Priced (s : State) : Prop :=
  match s.seq with
  | .uFetch => s.cpu.extra = 0
  | .uSstep | .uAcc => 1 ≤ costOf s.base s.cpu.extra
  | _ => True

theorem Priced.of_position {s : State} (free : s.seq ∉ [Uop.uFetch, .uSstep, .uAcc]) : Priced s := by
  unfold Priced
  split
  case h_1 here | h_2 here | h_3 here => simp [here] at free
  case h_4 => trivial

/-- Only the fetch leads to the positions where the cost is spoken of. -/
theorem followers_away_from_price : ∀ u ∉ [Uop.uClrx, .uFetch, .uSstep], ∀ v ∈ followers u,
    v ∉ [Uop.uFetch, .uSstep, .uAcc] := by
  intro u
  cases u <;> decide

/-- `U_FETCH` adds its extra cycles to an accumulator that `U_CLRX` has cleared. -/
theorem costOf_after_fetch {s : State} (positive : CostsPositive s.params) (cleared : s.cpu.extra = 0) :
    1 ≤ costOf (fetchAnswer s).base (cpuAfterFetch s).extra := by
  simpa [cpuAfterFetch, cleared, fetchAnswer] using positive (readByte s s.cpu.pc) (pastOpcode s.cpu) s.ram

/-! ## The end of a line and of a frame (43 R193, R198) -/

/-- After the loop of a line the budget is spent (43 R203). -/
theorem CounterLegal.spent {s : State} (counter : CounterLegal s) (inside : s.inFrame = true) (position : s.seq ∈ loopLeft) :
    s.params.scanlineCycleBudget ≤ s.scanlineCycleCounter := by
  obtain ⟨_, _, spent⟩ := counter inside
  exact spent position

/-- At `L_NEXT` a line of the frame is being left (43 R198). -/
theorem LineLegal.lt_at_lNext {s : State} (line : LineLegal s) (fits : lineFits s) (here : s.seq = .lNext) :
    s.line.toNat < frameLines s := by
  unfold LineLegal at line
  split at line
  · have visible : s.line.toNat < visibleLines := by simpa [here] using line
    exact Nat.lt_add_right _ visible
  · obtain ⟨_, _, going⟩ := line fits
    exact going (by simp [here])

/-! ## The steps of a frame against the cycles of its lines (43 R205) -/

/-- The positions between the addition of a step's cost and its count (41 R142). -/
abbrev owing : List Uop := [.uTimer, .uInput, .uIme, .uExec, .uDma, .uRetire]

/-- The positions before a line's loop, and those after the frame's last line. -/
abbrev unspent : List Uop := [.lEntry, .vEntry, .fPause, .fEnd]

/-- A step whose cost is added and that is not counted yet. -/
def owedSteps (s : State) : Nat := if s.seq ∈ owing then 1 else 0

/-- How much of the budget of the present line is spent. -/
def spentCycles (s : State) : Nat :=
  if s.seq ∈ unspent then 0 else min s.scanlineCycleCounter s.params.scanlineCycleBudget

/-- Since the frame began, after `first` steps, there has been no more than one step for each cycle of a budget spent. -/
def StepsBounded (first : Nat) (s : State) : Prop :=
  s.stepsExecuted + owedSteps s ≤ first + s.line.toNat * s.params.scanlineCycleBudget + spentCycles s

/-- Of the moves within a line only `U_ACC`, `U_RETIRE` and `L_ENTRY` change what is owed or spent. -/
theorem followers_owe_and_spend_alike : ∀ u ∉ frameEnds, u ∉ [Uop.uAcc, .uRetire, .lEntry, .lNext] → ∀ v ∈ followers u,
    (v ∈ owing ↔ u ∈ owing) ∧ (v ∈ unspent ↔ u ∈ unspent) := by
  intro u
  cases u <;> decide

theorem uopInstr_ne_uRetire {u : Uop} (other : u ≠ .uRetire) : uopInstr u ≠ .uRetire := by
  cases u with
  | uRetire => exact absurd rfl other
  | _ => exact Instr.noConfusion

/-- Between two lines nothing is owed, and nothing of the line to come is spent. -/
theorem lineEnd_owes_and_spends_nothing : ∀ v ∈ followers .lNext, v ∉ owing ∧ v ∈ unspent := by decide

/-! ## The rank of a frame (70 R327) -/

theorem frameRank_of_begun {s : State} (begun : s.seq ≠ .fStart) : frameRank s
    = (14 * s.params.scanlineCycleBudget + 40) * (frameLines s - s.line.toNat) + lineRank s := by
  rw [frameRank, if_neg begun]

theorem fStart_not_follower : ∀ u ∉ frameEnds, .fStart ∉ followers u := by
  intro u
  cases u <;> decide

/-- A move that leaves the counter and the line alone lowers the rank of the position. -/
theorem lineRank_lt_of_follows {s t : State} (params : t.params = s.params) (started : s.seq ∉ frameEnds)
    (other : s.seq ∉ [Uop.uAcc, .lEntry, .lNext]) (follows : t.seq ∈ followers s.seq)
    (counter : t.scanlineCycleCounter = s.scanlineCycleCounter) : lineRank t < lineRank s := by
  cases here : s.seq with
  | idle | fStart | fEnd | fatal | uAcc | lEntry | lNext => simp [here] at started other
  | lTest =>
    simp only [here, followers, List.mem_cons, List.not_mem_nil, or_false] at follows
    rcases follows with there | there | there <;> simp [lineRank, here, there, params, counter, loopRank]
  | lInc =>
    simp only [here, followers, List.mem_cons, List.not_mem_nil, or_false] at follows
    rcases follows with there | there <;> simp [lineRank, here, there]
  | _ =>
    simp only [here, followers, nextInStep, List.mem_singleton] at follows
    simp [lineRank, here, follows, params, counter, loopRank]

/-- A move within a line lowers the rank of the frame where it lowers the rank of the position. -/
theorem frameRank_lt_of_lineRank_lt {s t : State} (params : t.params = s.params) (line : t.line = s.line)
    (begun : s.seq ≠ .fStart) (begun' : t.seq ≠ .fStart) (lower : lineRank t < lineRank s) : frameRank t < frameRank s := by
  rw [frameRank_of_begun begun, frameRank_of_begun begun', frameLines, frameLines, params, line]
  exact Nat.add_lt_add_left lower _

/-- Whatever begins after a line ranks below a whole line. -/
theorem lineRank_le_of_lineEnd {s : State} (next : s.seq ∈ followers .lNext) :
    lineRank s ≤ 14 * s.params.scanlineCycleBudget + 21 := by
  simp only [followers, List.mem_cons, List.not_mem_nil, or_false] at next
  rcases next with there | there | there <;> simp [lineRank, there]

/-! ## The run of a frame -/

/-- The run of a frame that nothing disturbs, begun after `first` steps. -/
structure FrameRun (first : Nat) (s : State) : Prop extends Undisturbed s where
  wellFormed : s.params.wellFormed = true
  fits : lineFits s
  positive : CostsPositive s.params
  legal : Legal s
  priced : Priced s
  bounded : StepsBounded first s

/-- `F_START` begins a run at line 0 (43 R191). -/
theorem execFStart_frameRun {s t : State} (legal : Legal s) (wellFormed : s.params.wellFormed = true) (fits : lineFits s)
    (positive : CostsPositive s.params) (here : s.seq = .fStart) (quiet : s.host = []) (running : s.paused = false)
    (unflagged : s.flags = 0) (ran : execFStart s = .next t) : FrameRun s.stepsExecuted t := by
  have legal' := execFStart_legal legal here ran
  cases ran
  exact ⟨⟨rfl, quiet, running, unflagged⟩, wellFormed, fits, positive, legal', trivial, by
    simp [StepsBounded, owedSteps, spentCycles]⟩

/-- The rank after `F_START` leaves room for that micro-operation and the last one. -/
theorem execFStart_frameRank {s t : State} (here : s.seq = .fStart) (ran : execFStart s = .next t) :
    frameRank t + 2 ≤ frameRank s := by
  cases ran
  rw [frameRank_of_begun (by simp), frameRank, if_pos here, Nat.mul_succ]
  simp only [lineRank, frameLines, storeAll_params, BitVec.ofNat_eq_ofNat, BitVec.toNat_zero, Nat.sub_zero]
  omega

/-- A run of a frame before its last position is at none outside. -/
theorem FrameRun.position {first : Nat} {s : State} (run : FrameRun first s) (goesOn : s.seq ≠ .fEnd) : s.seq ∉ frameEnds := by
  obtain ⟨outside, _⟩ := run.legal.frame
  obtain ⟨_, alive⟩ := run.legal.pause
  simp only [List.mem_cons, List.not_mem_nil, or_false, not_or]
  refine ⟨fun idle => ?_, fun start => ?_, goesOn, fun fatal => ?_⟩
  · exact absurd (outside (.inl idle)) (by simp [run.inside])
  · exact absurd (outside (.inr start)) (by simp [run.inside])
  · exact absurd (alive fatal) (by simp [run.running])

/-- `L_NEXT` leaves a line of the frame and raises the count by 1 (43 R198). -/
theorem FrameRun.line_of_lNext {first : Nat} {s t : State} (run : FrameRun first s) (here : s.seq = .lNext)
    (ran : exec .lNext s = .next t) : s.line.toNat < frameLines s ∧ t.line.toNat = s.line.toNat + 1 := by
  have left := (run.legal.line run.inside).lt_at_lNext run.fits here
  cases ran
  exact ⟨left, raisedLine_toNat (Nat.lt_of_lt_of_le left run.fits)⟩

/-- `U_ACC` adds a cost of at least one cycle to a counter below the budget (41 R135, 43 R203). -/
theorem FrameRun.counter_of_uAcc {first : Nat} {s t : State} (run : FrameRun first s) (here : s.seq = .uAcc)
    (ran : exec .uAcc s = .next t) :
    s.scanlineCycleCounter < s.params.scanlineCycleBudget ∧ s.scanlineCycleCounter < t.scanlineCycleCounter := by
  have below := run.legal.counter.below run.inside (by simp [here])
  have cost : 1 ≤ costOf s.base s.cpu.extra := by simpa [Priced, here] using run.priced
  cases ran
  exact ⟨below, Nat.lt_add_of_pos_right cost⟩

section
variable {first : Nat} {s t : State} (run : FrameRun first s) {u : Uop} (here : s.seq = u)
  (ran : exec (uopInstr u) s = .next t) (move : FrameMove u s t)

include run here ran move

theorem FrameRun.exec_priced : Priced t := by
  have priced := run.priced
  by_cases fetching : u ∈ [Uop.uClrx, .uFetch, .uSstep]
  · cases u with
    | uClrx => cases ran; exact rfl
    | uFetch => cases ran; exact costOf_after_fetch run.positive (by simpa [Priced, here] using priced)
    | uSstep =>
      rw [exec_pausePoint_unflagged (by decide) run.running run.unflagged] at ran
      cases ran
      simpa [Priced, here, goto, pauseSuccessor] using priced
    | _ => simp at fetching
  · exact .of_position (followers_away_from_price u fetching t.seq move.follows)

theorem FrameRun.exec_lineRank_lt (started : u ∉ frameEnds) (inLine : u ≠ .lNext) : lineRank t < lineRank s := by
  have params := exec_params _ s t ran
  by_cases acc : u = .uAcc
  · subst acc
    obtain ⟨below, charged⟩ := run.counter_of_uAcc here ran
    have there : t.seq = .uTimer := List.mem_singleton.mp move.follows
    simp only [lineRank, here, there, params, loopRank]
    omega
  by_cases entry : u = .lEntry
  · subst entry
    cases ran
    simp [lineRank, here, loopRank]
  · subst here
    exact lineRank_lt_of_follows params started (by simp [acc, entry, inLine]) move.follows (move.counter acc entry)

theorem FrameRun.exec_frameRank_lt (started : u ∉ frameEnds) : frameRank t < frameRank s := by
  have params := exec_params _ s t ran
  have begun : s.seq ≠ .fStart := fun start => started (by simp [← here, start])
  have begun' : t.seq ≠ .fStart := fun start => fStart_not_follower u started (start ▸ move.follows)
  by_cases leaves : u = .lNext
  · subst leaves
    obtain ⟨left, raised⟩ := run.line_of_lNext here ran
    have rank := lineRank_le_of_lineEnd move.follows
    have lines : frameLines t = frameLines s := by rw [frameLines, frameLines, params]
    have remaining : frameLines s - s.line.toNat = frameLines s - t.line.toNat + 1 := by omega
    rw [params] at rank
    rw [frameRank_of_begun begun, frameRank_of_begun begun', lines, params, remaining, Nat.mul_succ]
    omega
  · exact frameRank_lt_of_lineRank_lt params (move.line leaves) begun begun'
      (run.exec_lineRank_lt here ran move started leaves)

theorem FrameRun.exec_uAcc_bounded (acc : u = .uAcc) : StepsBounded first t := by
  subst acc
  obtain ⟨below, charged⟩ := run.counter_of_uAcc here ran
  have there : t.seq = .uTimer := List.mem_singleton.mp move.follows
  have steps : t.stepsExecuted = s.stepsExecuted := by cases ran; rfl
  have bounded := run.bounded
  simp [StepsBounded, owedSteps, spentCycles, here, there, steps, move.line, exec_params _ s t ran] at bounded ⊢
  omega

theorem FrameRun.exec_lNext_bounded (leaves : u = .lNext) : StepsBounded first t := by
  subst leaves
  have spent := run.legal.counter.spent run.inside (by simp [here])
  obtain ⟨_, raised⟩ := run.line_of_lNext here ran
  obtain ⟨owes, spends⟩ := lineEnd_owes_and_spends_nothing t.seq move.follows
  have steps : t.stepsExecuted = s.stepsExecuted := by cases ran; rfl
  have bounded := run.bounded
  rw [StepsBounded, owedSteps, spentCycles, if_neg owes, if_pos spends, raised, steps, exec_params _ s t ran, Nat.succ_mul]
  simpa [StepsBounded, owedSteps, spentCycles, here, spent, Nat.add_assoc] using bounded

/-- A cost of at least one cycle pays for a step, and a line left has spent its whole budget. -/
theorem FrameRun.exec_bounded (started : u ∉ frameEnds) : StepsBounded first t := by
  have bounded := run.bounded
  by_cases acc : u = .uAcc
  · exact run.exec_uAcc_bounded here ran move acc
  by_cases leaves : u = .lNext
  · exact run.exec_lNext_bounded here ran move leaves
  by_cases retire : u = .uRetire
  · subst retire
    cases ran
    simpa [StepsBounded, owedSteps, spentCycles, here, run.inside] using bounded
  by_cases entry : u = .lEntry
  · subst entry
    cases ran
    simpa [StepsBounded, owedSteps, spentCycles, here] using bounded
  · obtain ⟨owes, spends⟩ :=
      followers_owe_and_spend_alike u started (by simp [acc, retire, entry, leaves]) t.seq move.follows
    have steps : t.stepsExecuted = s.stepsExecuted := by
      obtain ⟨counted, _⟩ := Proofs.countersOnlyGrowWhereTheyMust _ s t ran
      rw [counted, if_neg (uopInstr_ne_uRetire retire), Nat.add_zero]
    rw [StepsBounded, owedSteps, spentCycles, steps, move.line leaves, move.counter acc entry, exec_params _ s t ran]
    simpa only [StepsBounded, owedSteps, spentCycles, owes, spends, here] using bounded

/-- A micro-operation before the last keeps the run. -/
theorem FrameRun.exec_keeps (started : u ∉ frameEnds) : FrameRun first t := by
  have params := exec_params _ s t ran
  have fits : frameLines t = frameLines s := by rw [frameLines, frameLines, params]
  exact ⟨move.undisturbed, params ▸ run.wellFormed, Nat.le_trans (Nat.le_of_eq fits) run.fits, params ▸ run.positive,
    exec_uop_legal run.wellFormed run.legal u here ran, run.exec_priced here ran move, run.exec_bounded here ran move started⟩

end

/-- In a run the host is quiet, so that a step is the micro-operation at `seq` (00 R8). -/
theorem FrameRun.step_eq {first : Nat} {s : State} (run : FrameRun first s) : step s = exec (uopInstr s.seq) s :=
  step_run s s _ run.wellFormed (nextMove_exhausted s run.quiet)

theorem run_of_step {s t : State} (stepped : step s = .next t) (n : Nat) :
    Host.Core.run core (n + 1) s = Host.Core.run core n t := by
  have stepped' : core.step s = .next t := stepped
  simp only [Host.Core.run, stepped']

/-- A step before `F_END` keeps the run and lowers the rank. -/
theorem FrameRun.step_lower {first : Nat} {s : State} (run : FrameRun first s) (goesOn : s.seq ≠ .fEnd) :
    ∃ t, step s = .next t ∧ FrameRun first t ∧ frameRank t < frameRank s := by
  obtain ⟨t, ran⟩ := exec_next (uopInstr s.seq) s
  have started := run.position goesOn
  have move := run.exec_uop started ran
  exact ⟨t, run.step_eq.trans ran, run.exec_keeps rfl ran move started, run.exec_frameRank_lt rfl ran move started⟩

/-- At `F_END` every line of the frame is counted, and the step that ends it counts no more. -/
theorem FrameRun.step_fEnd {first : Nat} {s : State} (run : FrameRun first s) (here : s.seq = .fEnd) :
    ∃ t, step s = .next t ∧ t.seq = .idle
      ∧ t.stepsExecuted ≤ first + frameLines s * s.params.scanlineCycleBudget := by
  have stepped := run.step_eq
  rw [here] at stepped
  refine ⟨_, stepped, rfl, ?_⟩
  obtain ⟨_, _, _, _, ended⟩ := run.legal.frame
  obtain ⟨_, line⟩ := ended (by simp [here])
  have bounded := run.bounded
  simpa [StepsBounded, owedSteps, spentCycles, here, line] using bounded

/-- A run of a frame comes to IDLE in at most one micro-operation more than its rank. -/
theorem FrameRun.run_to_idle {first : Nat} {s : State} (run : FrameRun first s) :
    ∃ n t, n ≤ frameRank s + 1 ∧ Host.Core.run core n s = .next t ∧ t.seq = .idle
      ∧ t.stepsExecuted ≤ first + frameLines s * s.params.scanlineCycleBudget := by
  generalize bound : frameRank s = rank
  induction rank using Nat.strongRecOn generalizing s with
  | _ rank ih =>
    by_cases last : s.seq = .fEnd
    · obtain ⟨t, stepped, idle, steps⟩ := run.step_fEnd last
      exact ⟨1, t, by omega, run_of_step stepped 0, idle, steps⟩
    · obtain ⟨u, stepped, run', lower⟩ := run.step_lower last
      obtain ⟨n, t, within, ran, idle, steps⟩ := ih _ (bound ▸ lower) run' rfl
      obtain ⟨params, _⟩ := Proofs.stepKeepsTheParameters s u stepped
      rw [frameLines, params] at steps
      exact ⟨n + 1, t, by omega, (run_of_step stepped n).trans ran, idle, steps⟩

end Sys2Proof.Machine

namespace Sys2Proof.Proofs

open Sys2Proof.Machine

/-- Settles O60: `F_START` begins a run at line 0, with a rank at least 2 below its own, and a run comes to IDLE. -/
theorem frameEndsWithinItsBudget : Obligations.FrameEndsWithinItsBudget := by
  intro s legal wellFormed fits positive here quiet running unflagged
  obtain ⟨u, ran⟩ := exec_next .fStart s
  have stepped : step s = .next u := by
    rw [step_run s s _ wellFormed (nextMove_exhausted s quiet), here]
    exact ran
  have run := execFStart_frameRun legal wellFormed fits positive here quiet running unflagged ran
  obtain ⟨n, t, within, ranOn, idle, steps⟩ := run.run_to_idle
  have lower := execFStart_frameRank here ran
  obtain ⟨params, _⟩ := stepKeepsTheParameters s u stepped
  rw [frameLines, params] at steps
  exact ⟨n + 1, t, by omega, (run_of_step stepped n).trans ranOn, idle, steps⟩

end Sys2Proof.Proofs
end
